-- ==== Sys2Proof/Word.lean ====
section
/-! DEFINITION. The widths of the block's registers, fields and command word, and the four unit codes. -/

namespace Sys2Proof

/-- A byte: the CRC register and the operand of CRC.FOLD and CRC.LOAD (10_state R11, 30_encoding R44). -/
abbrev Byte := BitVec 8

/-- A 16-bit count, read as `i16` (30_encoding R44). -/
abbrev Half := BitVec 16

/-- A 32-bit word: the RES register and the operand of TC.TOLIN (10_state R12, 30_encoding R44). -/
abbrev W32 := BitVec 32

/-- A whole command word `cmd[39:0]` (30_encoding R40). -/
abbrev Cmd := BitVec 40

/-- The four units of the converter (30_encoding R43, 41_tempconv R81). -/
inductive TUnit where
  | celsius
  | fahrenheit
  | kelvin
  | raw
  deriving DecidableEq, Repr

end Sys2Proof
end

