-- ==== Sys2Proof/Syntax.lean ====
section
/-! DEFINITION. The eleven commands, one constructor for each row of spec/opcode_table.json (30_encoding R46). -/

namespace Sys2Proof

/-- A legal command with its operand, which has exactly the width its format gives it (30_encoding R41, R44). -/
inductive Instr where
  /-- CRC.INIT, format N (40_crc R68). -/
  | crcInit
  /-- CRC.FOLD imm8, format B (40_crc R69). -/
  | crcFold (imm8 : Byte)
  /-- CRC.LOAD imm8, format B (40_crc R70). -/
  | crcLoad (imm8 : Byte)
  /-- TC.TOLIN.C val32, format F (41_tempconv R88). -/
  | tcTolinC (val32 : W32)
  /-- TC.TOLIN.F val32, format F (41_tempconv R89). -/
  | tcTolinF (val32 : W32)
  /-- TC.TOLIN.K val32, format F (41_tempconv R90). -/
  | tcTolinK (val32 : W32)
  /-- TC.TOLIN.R val32, format F (41_tempconv R91). -/
  | tcTolinR (val32 : W32)
  /-- TC.FROMLIN.C raw16, format H (41_tempconv R92). -/
  | tcFromlinC (raw16 : Half)
  /-- TC.FROMLIN.F raw16, format H (41_tempconv R93). -/
  | tcFromlinF (raw16 : Half)
  /-- TC.FROMLIN.K raw16, format H (41_tempconv R94). -/
  | tcFromlinK (raw16 : Half)
  /-- TC.FROMLIN.R raw16, format H (41_tempconv R95). -/
  | tcFromlinR (raw16 : Half)
  deriving DecidableEq, Repr

end Sys2Proof
end

