-- ==== Sys2Proof/Written.lean ====
section
/-! DEFINITION. The written form of a command line, as the assembler reads it (30_encoding R49, R51), before any range check:
operands are the numbers the text gives. -/

namespace Sys2Proof

/-- The operand of a written TC.TOLIN: a 32-bit word, or a decimal literal `num / 10^places` (30_encoding R49). -/
inductive DegreeLit where
  | word (w : Nat)
  | decimal (num : Int) (places : Nat)
  deriving DecidableEq, Repr

/-- The operand of a written TC.FROMLIN: a 16-bit word, or a decimal integer (30_encoding R49). -/
inductive CountLit where
  | word (r : Nat)
  | decimal (r : Int)
  deriving DecidableEq, Repr

/-- One written line: a command or a pseudo-command (30_encoding R49, R51). -/
inductive AsmLine where
  | crcInit
  | crcFold (b : Nat)
  | crcLoad (b : Nat)
  | tcTolin (u : TUnit) (v : DegreeLit)
  | tcFromlin (u : TUnit) (r : CountLit)
  | pecRead (sa reg lo hi : Nat)
  | pecWrite (sa reg lo hi : Nat)
  deriving DecidableEq, Repr

end Sys2Proof
end

