-- ==== Sys2Proof/WellFormed.lean ====
section
/-! DEFINITION. Which commands and which written lines are well formed: the operand ranges of 30_encoding R44, R49, R51. -/

namespace Sys2Proof

/-- A command's operand is in the range its format gives it (30_encoding R44). The operand types have exactly those widths, so
every term of `Instr` meets it (`Instr.wellFormed` in Laws/Encoding): an ill-formed command cannot be built. The checks a term can
fail are those on written lines, below. -/
abbrev Instr.WellFormed (i : Instr) : Prop :=
  match i with
  | .crcInit => True
  | .crcFold imm8 | .crcLoad imm8 => imm8.toNat < 2 ^ 8
  | .tcTolinC w | .tcTolinF w | .tcTolinK w | .tcTolinR w => w.toNat < 2 ^ 32
  | .tcFromlinC r | .tcFromlinF r | .tcFromlinK r | .tcFromlinR r => r.toNat < 2 ^ 16

/-- A degree operand: the word has 32 bits (30_encoding R49); a decimal literal lies where `f32rne` is defined, |q| < 2^127
(30_encoding R45). That a larger literal is refused is the model's (DESIGN CHOICE, safe: log 6). -/
def DegreeLit.wf : DegreeLit → Bool
  | .word w => w < 2 ^ 32
  | .decimal num places => num.natAbs < 2 ^ 127 * 10 ^ places

/-- A count operand: the word has 16 bits; a decimal integer is in -32768..32767 (30_encoding R49). -/
def CountLit.wf : CountLit → Bool
  | .word r => r < 2 ^ 16
  | .decimal r => -32768 ≤ r && r ≤ 32767

/-- A written line's operands are in range: bytes 0..255, the bus address 0x00..0x7F, a larger one being an assembler error
(30_encoding R49, R51, 92 D24). -/
def AsmLine.wf : AsmLine → Bool
  | .crcInit => true
  | .crcFold b | .crcLoad b => b < 256
  | .tcTolin _ v => v.wf
  | .tcFromlin _ r => r.wf
  | .pecRead sa reg lo hi | .pecWrite sa reg lo hi => sa ≤ 0x7F && reg < 256 && lo < 256 && hi < 256

end Sys2Proof
end

