-- ==== Sys2Proof/Decode.lean ====
section
/-! DEFINITION. The decoder of a command word, total, with the two kinds of illegal word named; the encoder; the opcode table
(30_encoding R40 to R48, R52). -/

namespace Sys2Proof

/-- `op = cmd[39:32]` (30_encoding R40). -/
def opOf (cmd : Cmd) : Byte := cmd.extractLsb' 32 8

/-- `arg = cmd[31:0]` (30_encoding R40). -/
def argOf (cmd : Cmd) : W32 := cmd.extractLsb' 0 32

/-- The two kinds of illegal word (30_encoding R47); they are treated alike. -/
inductive IllegalWord where
  /-- `op` is outside the table. -/
  | unknownOp
  /-- `op` is in the table and a must-be-zero bit of `arg` is set. -/
  | operandBitSet
  deriving DecidableEq, Repr

/-- What a command word decodes to: one of the eleven commands, or ILLEGAL (30_encoding R52). -/
inductive Decoded where
  | legal (i : Instr)
  | illegal (why : IllegalWord)
  deriving DecidableEq, Repr

/-- Format N: the whole of `arg` must be zero (30_encoding R41). -/
def decodeN (arg : W32) (i : Instr) : Decoded :=
  if arg = 0#32 then .legal i else .illegal .operandBitSet

/-- Format B: `arg[31:8]` must be zero, `imm8 = arg[7:0]` (30_encoding R41). -/
def decodeB (arg : W32) (mk : Byte → Instr) : Decoded :=
  if arg.extractLsb' 8 24 = 0#24 then .legal (mk (arg.extractLsb' 0 8)) else .illegal .operandBitSet

/-- Format H: `arg[31:16]` must be zero, `raw16 = arg[15:0]` (30_encoding R41). -/
def decodeH (arg : W32) (mk : Half → Instr) : Decoded :=
  if arg.extractLsb' 16 16 = 0#16 then .legal (mk (arg.extractLsb' 0 16)) else .illegal .operandBitSet

/-- Format F: all of `arg` is the operand (30_encoding R41). -/
def decodeF (arg : W32) (mk : W32 → Instr) : Decoded := .legal (mk arg)

/-- The decoder: select by `op`, then check the must-be-zero bits (30_encoding R52). -/
def decode (cmd : Cmd) : Decoded :=
  if opOf cmd = 0x10#8 then decodeN (argOf cmd) .crcInit
  else if opOf cmd = 0x11#8 then decodeB (argOf cmd) .crcFold
  else if opOf cmd = 0x12#8 then decodeB (argOf cmd) .crcLoad
  else if opOf cmd = 0x20#8 then decodeF (argOf cmd) .tcTolinC
  else if opOf cmd = 0x21#8 then decodeF (argOf cmd) .tcTolinF
  else if opOf cmd = 0x22#8 then decodeF (argOf cmd) .tcTolinK
  else if opOf cmd = 0x23#8 then decodeF (argOf cmd) .tcTolinR
  else if opOf cmd = 0x24#8 then decodeH (argOf cmd) .tcFromlinC
  else if opOf cmd = 0x25#8 then decodeH (argOf cmd) .tcFromlinF
  else if opOf cmd = 0x26#8 then decodeH (argOf cmd) .tcFromlinK
  else if opOf cmd = 0x27#8 then decodeH (argOf cmd) .tcFromlinR
  else .illegal .unknownOp

/-- A word of format N (30_encoding R41). -/
def wordN (op : Byte) : Cmd := op ++ 0#32

/-- A word of format B (30_encoding R41). -/
def wordB (op imm8 : Byte) : Cmd := op ++ (0#24 ++ imm8 : W32)

/-- A word of format H (30_encoding R41). -/
def wordH (op : Byte) (raw16 : Half) : Cmd := op ++ (0#16 ++ raw16 : W32)

/-- A word of format F (30_encoding R41). -/
def wordF (op : Byte) (val32 : W32) : Cmd := op ++ val32

/-- The word of a command (30_encoding R46, R49). -/
def encode (i : Instr) : Cmd :=
  match i with
  | .crcInit => wordN 0x10#8
  | .crcFold imm8 => wordB 0x11#8 imm8
  | .crcLoad imm8 => wordB 0x12#8 imm8
  | .tcTolinC w => wordF 0x20#8 w
  | .tcTolinF w => wordF 0x21#8 w
  | .tcTolinK w => wordF 0x22#8 w
  | .tcTolinR w => wordF 0x23#8 w
  | .tcFromlinC r => wordH 0x24#8 r
  | .tcFromlinF r => wordH 0x25#8 r
  | .tcFromlinK r => wordH 0x26#8 r
  | .tcFromlinR r => wordH 0x27#8 r

/-- One row of the opcode table: a word is the row's when `(cmd AND mask) = bits` (30_encoding R46). -/
structure OpRow where
  mnemonic : String
  bits : Cmd
  mask : Cmd
  deriving DecidableEq, Repr

/-- The row of a command (30_encoding R46). -/
def Instr.row : Instr → OpRow
  | .crcInit => ⟨"CRC.INIT", 0x1000000000#40, 0xFFFFFFFFFF#40⟩
  | .crcFold _ => ⟨"CRC.FOLD", 0x1100000000#40, 0xFFFFFFFF00#40⟩
  | .crcLoad _ => ⟨"CRC.LOAD", 0x1200000000#40, 0xFFFFFFFF00#40⟩
  | .tcTolinC _ => ⟨"TC.TOLIN.C", 0x2000000000#40, 0xFF00000000#40⟩
  | .tcTolinF _ => ⟨"TC.TOLIN.F", 0x2100000000#40, 0xFF00000000#40⟩
  | .tcTolinK _ => ⟨"TC.TOLIN.K", 0x2200000000#40, 0xFF00000000#40⟩
  | .tcTolinR _ => ⟨"TC.TOLIN.R", 0x2300000000#40, 0xFF00000000#40⟩
  | .tcFromlinC _ => ⟨"TC.FROMLIN.C", 0x2400000000#40, 0xFFFFFF0000#40⟩
  | .tcFromlinF _ => ⟨"TC.FROMLIN.F", 0x2500000000#40, 0xFFFFFF0000#40⟩
  | .tcFromlinK _ => ⟨"TC.FROMLIN.K", 0x2600000000#40, 0xFFFFFF0000#40⟩
  | .tcFromlinR _ => ⟨"TC.FROMLIN.R", 0x2700000000#40, 0xFFFFFF0000#40⟩

/-- The eleven rows of the opcode table (30_encoding R46). -/
def opcodeTable : List OpRow :=
  [.crcInit, .crcFold 0#8, .crcLoad 0#8, .tcTolinC 0#32, .tcTolinF 0#32, .tcTolinK 0#32, .tcTolinR 0#32, .tcFromlinC 0#16,
    .tcFromlinF 0#16, .tcFromlinK 0#16, .tcFromlinR 0#16].map Instr.row

/-- A word is the row's (30_encoding R46). -/
def OpRow.selects (r : OpRow) (cmd : Cmd) : Bool := cmd &&& r.mask == r.bits

/-- `grp = op[7:4]` (30_encoding R42). -/
def grpOf (cmd : Cmd) : BitVec 4 := (opOf cmd).extractLsb' 4 4

/-- `fn = op[3:0]` (30_encoding R42). -/
def fnOf (cmd : Cmd) : BitVec 4 := (opOf cmd).extractLsb' 0 4

/-- The two-bit code of a unit (30_encoding R43). -/
def TUnit.code : TUnit → BitVec 2
  | .celsius => 0b00#2
  | .fahrenheit => 0b01#2
  | .kelvin => 0b10#2
  | .raw => 0b11#2

/-- The TC.TOLIN command of a unit (30_encoding R46). -/
def Instr.tolin : TUnit → W32 → Instr
  | .celsius => .tcTolinC
  | .fahrenheit => .tcTolinF
  | .kelvin => .tcTolinK
  | .raw => .tcTolinR

/-- The TC.FROMLIN command of a unit (30_encoding R46). -/
def Instr.fromlin : TUnit → Half → Instr
  | .celsius => .tcFromlinC
  | .fahrenheit => .tcFromlinF
  | .kelvin => .tcFromlinK
  | .raw => .tcFromlinR

/-- The command word of `nbits` bits numbered as the opcode table numbers them; a command is one whole 40-bit word with no
byte order (30_encoding R40, 20_memory R31 a). Bits above `nbits` are 0, bits above 39 do not exist (log 7). -/
def tableWord (nbits w : Nat) : Cmd := BitVec.ofNat 40 (w % 2 ^ nbits)

/-- What the decoder reads from a table word; `none` where the word is ILLEGAL. -/
def decodeTableWord (nbits w : Nat) : Option Instr :=
  match decode (tableWord nbits w) with
  | .legal i => some i
  | .illegal _ => none

end Sys2Proof
end

