-- ==== Sys2Proof/Config.lean ====
section
/-! DEFINITION. The parameters the spec fixes (00_scope R4, R5), and the two it leaves open, which nothing reads. -/

namespace Sys2Proof

/-- The 8-bit feedback constant, the low terms x^2 + x^1 + 1 of the generator (00_scope R4, 40_crc R60, R61). -/
def Config.crcFeedback : Byte := 0x07#8

/-- The seed of every transaction (00_scope R4, 40_crc R60). -/
def Config.crcSeed : Byte := 0x00#8

/-- Counts per kelvin: 0.02 K a count (00_scope R4, 41_tempconv R80). -/
def Config.countsPerKelvin : Nat := 50

/-- The Celsius offset 273.15 as the numerator over 100 (00_scope R4). -/
def Config.celsiusOffsetHundredths : Nat := 27315

/-- Whether a reset signal acts high and whether it waits for a clock: the open parameter RESET_KIND (00_scope R5, 92 D23). -/
structure Config.ResetKind where
  activeHigh : Bool
  synchronous : Bool
  deriving DecidableEq, Repr, Inhabited

/-- OPEN, with no value: how reset is signalled (70_reset R125). No rule depends on it and no definition reads it (log 4). -/
opaque Config.resetKind : Config.ResetKind

/-- OPEN, with no value: the duration `T_BIT` of one bit step (70_reset R131). The model has no time and no definition reads
it (log 4). -/
opaque Config.tBit : Nat

end Sys2Proof
end

