-- ==== Sys2Proof/Machine/State.lean ====
section
/-! DEFINITION. The block's state: the three registers of 10_state R10, and the host's pending events (log 1); reset; the reasons
a step could stop, of which none is ever given. -/

namespace Sys2Proof.Machine

/-- What the host can apply to the block (00_scope R6, 70_reset R125). -/
inductive HostEvent where
  /-- Present one command word (30_encoding R40). -/
  | command (word : Cmd)
  /-- Apply reset (70_reset R125). -/
  | reset
  deriving DecidableEq, Repr

/-- The state. -/
structure State where
  /-- CRC[7:0], the running CRC (10_state R11). -/
  crc : Byte
  /-- RES[31:0], the result of the most recent TC command, without a type tag (10_state R12, R13). -/
  res : W32
  /-- FLAGS[2:0]: RANGE in bit 0, INVALID in bit 1, ILL in bit 2 (10_state R14). -/
  flags : BitVec 3
  /-- The MODEL'S OWN field, no register: what the host presents next, first event first (DESIGN CHOICE, safe: log 1). -/
  pending : List HostEvent
  deriving DecidableEq, Repr

/-- Faults. There is none: the block raises nothing and its step never faults (60_exceptions R110, R120), so this type has no
constructor and nobody can raise one. Safe: the hardware never stops either. -/
inductive Fault where
  deriving DecidableEq, Repr

/-- Refusals. No step gives one (60_exceptions R120). -/
inductive Refusal where
  /-- An arm of `exec` that has no meaning yet would raise it; every arm has one, so nobody does. Safe. -/
  | notModelled (mnemonic : String)
  deriving DecidableEq, Repr

/-- The state after reset: every register at the spec's reset value (10_state R20, 70_reset R125), and nothing pending. -/
def State.reset : State where
  crc := 0x00#8
  res := 0x00000000#32
  flags := 0b000#3
  pending := []

end Sys2Proof.Machine
end

