-- ==== Sys2Proof/Machine/Flags.lean ====
section
/-! DEFINITION. The three flags of FLAGS[2:0]: reading one, packing three, and the two ways a step updates them (10_state R14). -/

namespace Sys2Proof.Machine

/-- FLAGS with the three bits given: ILL is bit 2, INVALID bit 1, RANGE bit 0 (10_state R14). -/
def packFlags (ill invalid range : Bool) : BitVec 3 :=
  BitVec.ofBool ill ++ (BitVec.ofBool invalid ++ BitVec.ofBool range : BitVec 2)

/-- RANGE, bit 0 (10_state R14). -/
def rangeBit (flags : BitVec 3) : Bool := flags.getLsbD 0

/-- INVALID, bit 1 (10_state R14). -/
def invalidBit (flags : BitVec 3) : Bool := flags.getLsbD 1

/-- ILL, bit 2 (10_state R14). -/
def illBit (flags : BitVec 3) : Bool := flags.getLsbD 2

/-- A legal TC command writes RANGE and INVALID and leaves ILL (41_tempconv R96). -/
def tcFlags (flags : BitVec 3) (range invalid : Bool) : BitVec 3 := packFlags (illBit flags) invalid range

/-- An illegal word sets ILL and leaves RANGE and INVALID (30_encoding R47). -/
def illFlags (flags : BitVec 3) : BitVec 3 := packFlags true (invalidBit flags) (rangeBit flags)

end Sys2Proof.Machine
end

