-- ==== Sys2Proof/Machine/Ops.lean ====
section
/-! DEFINITION. The named operations on the state: the register writes, the effect of an illegal word, of reset and of no event,
the views (10_state R15), and how the host presents a command. There is no memory (20_memory R30) and no exception to take
(60_exceptions R110): an error is a flag write. -/

namespace Sys2Proof.Machine

/-- `CRC <- c`; RES and FLAGS keep their values (00_scope R9). -/
def State.setCrc (s : State) (c : Byte) : State := { s with crc := c }

/-- The write of a TC command: RES, RANGE and INVALID together; ILL and CRC keep their values (20_memory R33, 41_tempconv R96). -/
def State.setTc (s : State) (res : W32) (range invalid : Bool) : State :=
  { s with res := res, flags := tcFlags s.flags range invalid }

/-- The one effect of an ILLEGAL word: `FLAGS.ILL <- 1` (30_encoding R47). -/
def State.raiseIll (s : State) : State := { s with flags := illFlags s.flags }

/-- The whole effect of reset on the registers; the host's later events stay (70_reset R125; log 2). -/
def State.applyReset (s : State) : State :=
  { s with crc := State.reset.crc, res := State.reset.res, flags := State.reset.flags }

/-- With no event the block does not act (00_scope R6; log 1). -/
def State.idle (s : State) : State := s

/-- The host presents `word` next, before what it had pending (log 1). -/
def State.present (s : State) (word : Cmd) : State := { s with pending := .command word :: s.pending }

/-- View `crc_o` (10_state R15). -/
def State.crcO (s : State) : Byte := s.crc

/-- View `res_o` (10_state R15). -/
def State.resO (s : State) : W32 := s.res

/-- View `flags_o` (10_state R15). -/
def State.flagsO (s : State) : BitVec 3 := s.flags

/-- The observation of the block: the triple (CRC, RES, FLAGS) (00_scope R7). -/
def State.observe (s : State) : Byte × W32 × BitVec 3 := (s.crcO, s.resO, s.flagsO)

/-- FLAGS.RANGE. -/
def State.range (s : State) : Bool := rangeBit s.flags

/-- FLAGS.INVALID. -/
def State.invalid (s : State) : Bool := invalidBit s.flags

/-- FLAGS.ILL. -/
def State.ill (s : State) : Bool := illBit s.flags

end Sys2Proof.Machine
end

