-- ==== Sys2Proof/Machine/Crc.lean ====
section
/-! DEFINITION. The CRC unit: the bit step, the byte fold, the CRC of a message, and CRC.INIT, CRC.FOLD, CRC.LOAD (40_crc R60 to
R62, R67 to R70). -/

namespace Sys2Proof.Machine

/-- The bit step: feedback `c[7] XOR m`, shift left by one, XOR the low terms of G(x) on feedback (40_crc R61). -/
def crcBit (c : Byte) (m : Bool) : Byte :=
  if c.getLsbD 7 ^^ m then (c <<< 1) ^^^ Config.crcFeedback else c <<< 1

/-- The byte fold: eight bit steps, bit 7 of the byte first (40_crc R62). -/
def crc8 (prev byte : Byte) : Byte := [7, 6, 5, 4, 3, 2, 1, 0].foldl (fun c i => crcBit c (byte.getLsbD i)) prev

/-- The CRC of a byte sequence: the seed, each byte folded in order, no final XOR (40_crc R67). -/
def crc8Msg (bs : List Byte) : Byte := bs.foldl crc8 Config.crcSeed

/-- CRC.INIT (40_crc R68). -/
def execCrcInit (s : State) : Host.Outcome State Fault Refusal := .next (s.setCrc Config.crcSeed)

/-- CRC.FOLD (40_crc R69). -/
def execCrcFold (imm8 : Byte) (s : State) : Host.Outcome State Fault Refusal := .next (s.setCrc (crc8 s.crc imm8))

/-- CRC.LOAD (40_crc R70). -/
def execCrcLoad (imm8 : Byte) (s : State) : Host.Outcome State Fault Refusal := .next (s.setCrc imm8)

end Sys2Proof.Machine
end

