-- ==== Sys2Proof/Machine/Operands.lean ====
section
/-! DEFINITION. The operand forms: a byte as it stands, a count as two's complement, and a binary32 word (30_encoding R44, R45). -/

namespace Sys2Proof.Machine

/-- `raw16` read as `i16`: `signed(arg[15:0])` (30_encoding R44, 41_tempconv R99). -/
def countOf (raw16 : Half) : Int := raw16.toInt

/-- `s = w[31]` (30_encoding R45). -/
def f32Sign (w : W32) : Bool := w.getLsbD 31

/-- `e = unsigned(w[30:23])` (30_encoding R45). -/
def f32Exp (w : W32) : Nat := (w.extractLsb' 23 8).toNat

/-- `f = unsigned(w[22:0])` (30_encoding R45). -/
def f32Frac (w : W32) : Nat := (w.extractLsb' 0 23).toNat

/-- Any NaN, quiet or signalling, either sign (30_encoding R45). -/
def isNan (w : W32) : Bool := f32Exp w == 255 && f32Frac w != 0

/-- An infinity of either sign (30_encoding R45). -/
def isInf (w : W32) : Bool := f32Exp w == 255 && f32Frac w == 0

/-- Neither a NaN nor an infinity (30_encoding R45). -/
def isFinite (w : W32) : Bool := f32Exp w != 255

/-- The magnitude of a finite word as a whole number of units of 2^(-149): `f` if `e = 0`, else `(2^23 + f) * 2^(e-1)`
(30_encoding R45, where the normal case is written `(2^23 + f) * 2^(e-150)`; log 5). -/
def f32MagUnits (w : W32) : Nat :=
  if f32Exp w = 0 then f32Frac w else (2 ^ 23 + f32Frac w) * 2 ^ (f32Exp w - 1)

/-- The value of a finite word in units of 2^(-149), exactly; both zeros are 0 (30_encoding R45; log 5). -/
def f32Units (w : W32) : Int := if f32Sign w then -(f32MagUnits w : Int) else f32MagUnits w

/-- How many units make 1: `2^149` (30_encoding R45). -/
def unitsPerOne : Nat := 2 ^ 149

end Sys2Proof.Machine
end

