-- ==== Sys2Proof/Machine/Convert.lean ====
section
/-! DEFINITION. The converter's arithmetic in integers, exact until its one rounding (41_tempconv R83 to R87, R101, R102). A
rational is a numerator over a positive denominator; Machine/Exact.lean has the same formulas over the rationals, as the spec
writes them, and the obligations say the two agree (log 5). -/

namespace Sys2Proof.Machine

/-- `rha(n/d)`: nearest integer, ties away from zero (41_tempconv R84). -/
def rhaDiv (n : Int) (d : Nat) : Int :=
  if 0 ≤ n then (2 * n + d) / (2 * d) else -((-(2 * n) + d) / (2 * d))

/-- `tz(n/d)`: toward zero (41_tempconv R84). -/
def tzDiv (n : Int) (d : Nat) : Int := if 0 ≤ n then n / d else -(-n / d)

/-- Clamp to -32768..32767 (41_tempconv R85). -/
def sat16 (i : Int) : Int := if i < -32768 then -32768 else if 32767 < i then 32767 else i

/-- `TL(v, u)` for the operand `v = m / 2^149` (41_tempconv R83): `tz(v)`; `rha(50*v)`; `rha(50*v + 27315/2)`;
`rha((500*v + 229835)/18)`, where 229835 = 9*27315 - 500*32. -/
def linearOf (m : Int) : TUnit → Int
  | .raw => tzDiv m unitsPerOne
  | .kelvin => rhaDiv (Config.countsPerKelvin * m) unitsPerOne
  | .celsius =>
    rhaDiv (2 * Config.countsPerKelvin * m + Config.celsiusOffsetHundredths * unitsPerOne) (2 * unitsPerOne)
  | .fahrenheit =>
    rhaDiv (10 * Config.countsPerKelvin * m + (9 * Config.celsiusOffsetHundredths - 16000) * unitsPerOne)
      (18 * unitsPerOne)

/-- `N(raw, u) = 1000 * FL(raw, u)` (41_tempconv R101). -/
def thousandths (raw : Int) : TUnit → Int
  | .raw => 1000 * raw
  | .kelvin => 20 * raw
  | .celsius => 20 * raw - 273150
  | .fahrenheit => 36 * raw - 459670

/-- `a/b` to the nearest natural number, ties to even (30_encoding R45). -/
def rneDiv (a b : Nat) : Nat :=
  if 2 * (a % b) < b then a / b
  else if b < 2 * (a % b) then a / b + 1
  else a / b + a / b % 2

/-- The binary32 word nearest to `n/d`, ties to even, for `|n/d| < 2^127` and `d > 0` (30_encoding R45). With `a/d` the magnitude
in units of 2^(-149), the words of the right size lie `2^k` units apart; `k * 2^23` plus the rounded significand is the word's
exponent and fraction field, for subnormals as for normals. Outside that range the value has no meaning (log 6). -/
def f32rne (n : Int) (d : Nat) : W32 :=
  if n = 0 then 0#32
  else
    let a := n.natAbs * unitsPerOne
    let k := (a / d).log2 - 23
    BitVec.ofBool (decide (n < 0)) ++ BitVec.ofNat 31 (k * 2 ^ 23 + rneDiv a (d * 2 ^ k))

end Sys2Proof.Machine
end

