-- ==== Sys2Proof/Machine/Tempconv.lean ====
section
/-! DEFINITION. The TC unit: the two helpers `tolin` and `fromlin` of 41_tempconv section 3 and the eight commands (R86 to R96). -/

namespace Sys2Proof.Machine

/-- What a TC command writes: RES, RANGE, INVALID (41_tempconv R96). -/
structure TcResult where
  res : W32
  range : Bool
  invalid : Bool
  deriving DecidableEq, Repr

/-- `sext_32(trunc_16(i))` for an integer that fits `i16` (10_state R12, 41_tempconv R102 b). -/
def resOfCount (i : Int) : W32 := (BitVec.ofInt 16 i).signExtend 32

/-- The helper of the four TOLIN commands: the operand's class, NaN first, then infinity, then the exact conversion and the clamp
(41_tempconv R85, R86). -/
def tolin (w : W32) (u : TUnit) : TcResult :=
  if isNan w then ⟨resOfCount 0, false, true⟩
  else if isInf w then ⟨resOfCount (if f32Sign w then -32768 else 32767), true, false⟩
  else
    let i := linearOf (f32Units w) u
    ⟨resOfCount (sat16 i), decide (sat16 i ≠ i), false⟩

/-- The helper of the four FROMLIN commands: one rounding of the exact rational, no flag (41_tempconv R87, R96). -/
def fromlin (raw16 : Half) (u : TUnit) : TcResult := ⟨f32rne (thousandths (countOf raw16) u) 1000, false, false⟩

/-- Write a TC command's result (41_tempconv R96). -/
def writeTc (r : TcResult) (s : State) : Host.Outcome State Fault Refusal := .next (s.setTc r.res r.range r.invalid)

/-- TC.TOLIN.C (41_tempconv R88). -/
def execTcTolinC (val32 : W32) (s : State) : Host.Outcome State Fault Refusal := writeTc (tolin val32 .celsius) s

/-- TC.TOLIN.F (41_tempconv R89). -/
def execTcTolinF (val32 : W32) (s : State) : Host.Outcome State Fault Refusal := writeTc (tolin val32 .fahrenheit) s

/-- TC.TOLIN.K (41_tempconv R90). -/
def execTcTolinK (val32 : W32) (s : State) : Host.Outcome State Fault Refusal := writeTc (tolin val32 .kelvin) s

/-- TC.TOLIN.R (41_tempconv R91). -/
def execTcTolinR (val32 : W32) (s : State) : Host.Outcome State Fault Refusal := writeTc (tolin val32 .raw) s

/-- TC.FROMLIN.C (41_tempconv R92). -/
def execTcFromlinC (raw16 : Half) (s : State) : Host.Outcome State Fault Refusal := writeTc (fromlin raw16 .celsius) s

/-- TC.FROMLIN.F (41_tempconv R93). -/
def execTcFromlinF (raw16 : Half) (s : State) : Host.Outcome State Fault Refusal := writeTc (fromlin raw16 .fahrenheit) s

/-- TC.FROMLIN.K (41_tempconv R94). -/
def execTcFromlinK (raw16 : Half) (s : State) : Host.Outcome State Fault Refusal := writeTc (fromlin raw16 .kelvin) s

/-- TC.FROMLIN.R (41_tempconv R95). -/
def execTcFromlinR (raw16 : Half) (s : State) : Host.Outcome State Fault Refusal := writeTc (fromlin raw16 .raw) s

end Sys2Proof.Machine
end

