-- ==== Sys2Proof/Machine/Dispatch.lean ====
section
/-! DEFINITION. The dispatch: one arm for each of the eleven commands (30_encoding R46). -/

namespace Sys2Proof.Machine

def exec (i : Instr) (s : State) : Host.Outcome State Fault Refusal :=
  match i with
  | .crcInit => Sys2Proof.Machine.execCrcInit s
  | .crcFold imm8 => Sys2Proof.Machine.execCrcFold imm8 s
  | .crcLoad imm8 => Sys2Proof.Machine.execCrcLoad imm8 s
  | .tcTolinC val32 => Sys2Proof.Machine.execTcTolinC val32 s
  | .tcTolinF val32 => Sys2Proof.Machine.execTcTolinF val32 s
  | .tcTolinK val32 => Sys2Proof.Machine.execTcTolinK val32 s
  | .tcTolinR val32 => Sys2Proof.Machine.execTcTolinR val32 s
  | .tcFromlinC raw16 => Sys2Proof.Machine.execTcFromlinC raw16 s
  | .tcFromlinF raw16 => Sys2Proof.Machine.execTcFromlinF raw16 s
  | .tcFromlinK raw16 => Sys2Proof.Machine.execTcFromlinK raw16 s
  | .tcFromlinR raw16 => Sys2Proof.Machine.execTcFromlinR raw16 s

end Sys2Proof.Machine
end

