-- ==== Sys2Proof/Machine/Step.lean ====
section
/-! DEFINITION. One step: the block executes the host's next event to completion (00_scope R6, 20_memory R33, R35). -/

namespace Sys2Proof.Machine

/-- One step. A command word is decoded and executed, an ILLEGAL word has the effect of 30_encoding R47, a reset that of
70_reset R125; with nothing pending the block does not act (00_scope R6; log 1). -/
def step (s : State) : Host.Outcome State Fault Refusal :=
  match s.pending with
  | [] => .next s.idle
  | .reset :: rest => .next (State.applyReset { s with pending := rest })
  | .command w :: rest =>
    match decode w with
    | .legal i => exec i { s with pending := rest }
    | .illegal _ => .next (State.raiseIll { s with pending := rest })

/-- `s` with the table word as the host's next command (log 1, log 7). -/
def State.withFetchWord (s : State) (nbits w : Nat) : State := s.present (tableWord nbits w)

end Sys2Proof.Machine
end

