-- ==== Sys2Proof/Machine/Pec.lean ====
section
/-! DEFINITION. What the host folds for one bus transaction: the address bytes, the two PEC sequences, and the expansions of
PEC.READ and PEC.WRITE (40_crc R71 to R73, 30_encoding R51; five folds for a read, 90_conflicts C1). -/

namespace Sys2Proof.Machine

/-- The write-address byte `WA = {sa[6:0], 0b0}` (40_crc R71). -/
def writeAddress (sa : BitVec 7) : Byte := sa ++ 0b0#1

/-- The read-address byte `RA = {sa[6:0], 0b1}` (40_crc R71). -/
def readAddress (sa : BitVec 7) : Byte := sa ++ 0b1#1

/-- The bytes the PEC of a register read covers, low data byte before high (40_crc R72, 20_memory R31 b). -/
def readSequence (sa : BitVec 7) (reg lo hi : Byte) : List Byte := [writeAddress sa, reg, readAddress sa, lo, hi]

/-- The bytes the PEC of a register write covers (40_crc R73). -/
def writeSequence (sa : BitVec 7) (reg lo hi : Byte) : List Byte := [writeAddress sa, reg, lo, hi]

/-- Seed, then fold each byte. -/
def foldCommands (bs : List Byte) : List Instr := .crcInit :: bs.map .crcFold

/-- The expansion of `PEC.READ sa, reg, lo, hi` (30_encoding R51). -/
def pecRead (sa : BitVec 7) (reg lo hi : Byte) : List Instr := foldCommands (readSequence sa reg lo hi)

/-- The expansion of `PEC.WRITE sa, reg, lo, hi` (30_encoding R51). -/
def pecWrite (sa : BitVec 7) (reg lo hi : Byte) : List Instr := foldCommands (writeSequence sa reg lo hi)

/-- The host events that present a list of commands, in order (30_encoding R50). -/
def presents (is : List Instr) : List HostEvent := is.map (fun i => .command (encode i))

end Sys2Proof.Machine
end

