-- ==== Sys2Proof/Machine/Assembler.lean ====
section
/-! DEFINITION. The assembler: what a written line stands for, how its text is read, and the ten hex digits of a word
(30_encoding R49, R51). It is no part of the step. -/

namespace Sys2Proof.Machine

/-- The word of a degree operand: the word itself, or `f32rne` of the decimal literal (30_encoding R49). -/
def degreeWord : DegreeLit → W32
  | .word w => BitVec.ofNat 32 w
  | .decimal num places => f32rne num (10 ^ places)

/-- The word of a count operand: the word itself, or `trunc_16` of the decimal integer (30_encoding R49). -/
def countWord : CountLit → Half
  | .word r => BitVec.ofNat 16 r
  | .decimal r => BitVec.ofInt 16 r

/-- The commands a written line stands for (30_encoding R49, R51). -/
def expand : AsmLine → List Instr
  | .crcInit => [.crcInit]
  | .crcFold b => [.crcFold (BitVec.ofNat 8 b)]
  | .crcLoad b => [.crcLoad (BitVec.ofNat 8 b)]
  | .tcTolin u v => [.tolin u (degreeWord v)]
  | .tcFromlin u r => [.fromlin u (countWord r)]
  | .pecRead sa reg lo hi => pecRead (BitVec.ofNat 7 sa) (BitVec.ofNat 8 reg) (BitVec.ofNat 8 lo) (BitVec.ofNat 8 hi)
  | .pecWrite sa reg lo hi => pecWrite (BitVec.ofNat 7 sa) (BitVec.ofNat 8 reg) (BitVec.ofNat 8 lo) (BitVec.ofNat 8 hi)

/-- Assemble one line; `none` where an operand is out of range (92 D24). -/
def assemble (l : AsmLine) : Option (List Cmd) := if l.wf then some ((expand l).map encode) else none

/-- The value of one digit of base 16, capitals or small letters (log 8). -/
def digitValue (c : Char) : Option Nat :=
  if '0' ≤ c ∧ c ≤ '9' then some (c.toNat - 48)
  else if 'A' ≤ c ∧ c ≤ 'F' then some (c.toNat - 55)
  else if 'a' ≤ c ∧ c ≤ 'f' then some (c.toNat - 87)
  else none

/-- The number that digits of a base write, after `acc`. -/
def readDigits (base : Nat) : List Char → Nat → Option Nat
  | [], acc => some acc
  | c :: cs, acc =>
    match digitValue c with
    | some v => if v < base then readDigits base cs (acc * base + v) else none
    | none => none

/-- A number of at least one digit. -/
def readNumber (base : Nat) (cs : List Char) : Option Nat := if cs = [] then none else readDigits base cs 0

/-- A natural number, decimal or `0x..` (30_encoding R49). -/
def readNat : List Char → Option Nat
  | '0' :: 'x' :: cs => readNumber 16 cs
  | cs => readNumber 10 cs

/-- Apply a sign. -/
def signed (negative : Bool) (n : Nat) : Int := if negative then -(n : Int) else n

/-- The digits of an unsigned decimal literal with an optional point: numerator and number of places. -/
def readPlaces (negative : Bool) (cs : List Char) : Option DegreeLit :=
  match cs.splitOn '.' with
  | [whole] => (readNumber 10 whole).map fun n => .decimal (signed negative n) 0
  | [whole, places] =>
    if whole = [] ∨ places = [] then none
    else (readNumber 10 (whole ++ places)).map fun n => .decimal (signed negative n) places.length
  | _ => none

/-- The operand of a TC.TOLIN: `0x........` or a decimal literal (30_encoding R49). -/
def readDegree : List Char → Option DegreeLit
  | '0' :: 'x' :: cs => (readNumber 16 cs).map .word
  | '-' :: cs => readPlaces true cs
  | cs => readPlaces false cs

/-- The operand of a TC.FROMLIN: `0x....` or a decimal integer (30_encoding R49). -/
def readCount : List Char → Option CountLit
  | '0' :: 'x' :: cs => (readNumber 16 cs).map .word
  | '-' :: cs => (readNumber 10 cs).map fun n => .decimal (signed true n)
  | cs => (readNumber 10 cs).map fun n => .decimal (signed false n)

/-- The unit letters C, F, K, R (30_encoding R43). -/
def readUnit : List Char → Option TUnit
  | ['C'] => some .celsius
  | ['F'] => some .fahrenheit
  | ['K'] => some .kelvin
  | ['R'] => some .raw
  | _ => none

/-- The words of a line, its comment cut off: blanks and commas separate (30_encoding R49; log 8). -/
def words (line : List Char) : List (List Char) :=
  ((line.takeWhile (· ≠ ';')).splitOnP (fun c => c = ' ' ∨ c = '\t' ∨ c = ',')).filter (· ≠ [])

/-- Four natural operands. -/
def readFour (mk : Nat → Nat → Nat → Nat → AsmLine) : List (List Char) → Option AsmLine
  | [sa, reg, lo, hi] =>
    match readNat sa, readNat reg, readNat lo, readNat hi with
    | some a, some r, some l, some h => some (mk a r l h)
    | _, _, _, _ => none
  | _ => none

/-- A mnemonic of the TC unit: its unit and operand. -/
def readTc (mnemonic operand : List Char) : Option AsmLine :=
  if mnemonic.take 9 = "TC.TOLIN.".toList then
    match readUnit (mnemonic.drop 9), readDegree operand with
    | some u, some v => some (.tcTolin u v)
    | _, _ => none
  else if mnemonic.take 11 = "TC.FROMLIN.".toList then
    match readUnit (mnemonic.drop 11), readCount operand with
    | some u, some r => some (.tcFromlin u r)
    | _, _ => none
  else none

/-- Read the words of a line: mnemonic, then operand (30_encoding R49, R51). -/
def readWords : List (List Char) → Option AsmLine
  | [] => none
  | mnemonic :: operands =>
    if mnemonic = "PEC.READ".toList then readFour .pecRead operands
    else if mnemonic = "PEC.WRITE".toList then readFour .pecWrite operands
    else
      match operands with
      | [] => if mnemonic = "CRC.INIT".toList then some .crcInit else none
      | [operand] =>
        if mnemonic = "CRC.FOLD".toList then (readNat operand).map .crcFold
        else if mnemonic = "CRC.LOAD".toList then (readNat operand).map .crcLoad
        else readTc mnemonic operand
      | _ => none

/-- The command words a line of text gives: none for a line with only blanks and a comment; no answer for a line that is no
command or has an operand out of range (30_encoding R49). -/
def assembleText (line : String) : Option (List Cmd) :=
  match words line.toList with
  | [] => some []
  | ws => (readWords ws).bind assemble

/-- The hex digit of a value below 16. -/
def hexDigit (n : Nat) : Char := if n < 10 then Char.ofNat (48 + n) else Char.ofNat (55 + n)

/-- The written form of a word in listings: ten hex digits, `op` first (30_encoding R49). -/
def listing (w : Cmd) : List Char :=
  [9, 8, 7, 6, 5, 4, 3, 2, 1, 0].map fun k => hexDigit ((w.extractLsb' (4 * k) 4).toNat)

end Sys2Proof.Machine
end

