-- ==== Sys2Proof/Machine/Exact.lean ====
section
/-! DEFINITION. The converter's formulas over the rationals, as 30_encoding R45 and 41_tempconv R82 to R84 write them. The step
does not call them: they are what the obligations compare it with. -/

namespace Sys2Proof.Machine

/-- `f32val(w)`: the rational a finite word denotes (30_encoding R45). -/
def f32val (w : W32) : Rat :=
  (if f32Sign w then -1 else 1) *
    (if f32Exp w = 0 then f32Frac w * (2 : Rat) ^ (-149 : Int)
     else (2 ^ 23 + f32Frac w) * (2 : Rat) ^ ((f32Exp w : Int) - 150))

/-- `rha(q)`, round half away from zero (41_tempconv R84). -/
def rha (q : Rat) : Int := if 0 ≤ q then ⌊q + 1 / 2⌋ else -⌊-q + 1 / 2⌋

/-- `tz(q)`, truncate toward zero (41_tempconv R84). -/
def tz (q : Rat) : Int := if 0 ≤ q then ⌊q⌋ else -⌊-q⌋

/-- `FL(raw, u)`, the exact value of `from_linear` (41_tempconv R82). -/
def exactFL (raw : Int) : TUnit → Rat
  | .raw => raw
  | .kelvin => raw / 50
  | .celsius => raw / 50 - 27315 / 100
  | .fahrenheit => (raw / 50 - 27315 / 100) * 9 / 5 + 32

/-- `TL(v, u)`, the exact value of `to_linear` before it is narrowed (41_tempconv R83). -/
def exactTL (v : Rat) : TUnit → Int
  | .raw => tz v
  | .kelvin => rha (50 * v)
  | .celsius => rha (50 * (v + 27315 / 100))
  | .fahrenheit => rha (50 * ((v - 32) * 5 / 9 + 27315 / 100))

/-- `w` is `f32rne(q)` (30_encoding R45): finite, no finite word nearer to `q`, an even word where another value is equally near,
+0.0 for 0, and the sign bit of a non-zero `q` set exactly when `q` is negative. -/
structure IsF32Rne (q : Rat) (w : W32) : Prop where
  finite : isFinite w = true
  nearest : ∀ w', isFinite w' = true → |f32val w - q| ≤ |f32val w' - q|
  tieEven : ∀ w', isFinite w' = true → |f32val w' - q| = |f32val w - q| → f32val w' ≠ f32val w → w.getLsbD 0 = false
  zero : q = 0 → w = 0x00000000#32
  sign : q ≠ 0 → (f32Sign w = true ↔ q < 0)

end Sys2Proof.Machine
end

