-- ==== Sys2Proof/Safety.lean ====
section
/-! DEFINITION. What "gone wrong" means for a claim (60_exceptions R120), and the invariant of the flags (10_state R22). -/

namespace Sys2Proof

/-- No word went unexecuted: ILL = 0 (60_exceptions R115, R120). -/
abbrev Safe (s : Machine.State) : Prop := s.ill = false

/-- The result of a TOLIN may be used: neither RANGE nor INVALID (60_exceptions R120, 70_reset R130 b). -/
abbrev ResultUsable (s : Machine.State) : Prop := s.range = false ∧ s.invalid = false

/-- RANGE and INVALID are not both 1: FLAGS is never 0b011 or 0b111 (10_state R14, R22). -/
abbrev FlagsLegal (s : Machine.State) : Prop := ¬(s.range = true ∧ s.invalid = true)

end Sys2Proof
end

