-- ==== Sys2Proof/Certificates/Slice0/Obligations.lean ====
section
/-! DEFINITION. The statements for the provers, each formalising what a rule of spec/ says the block does, and the few words they are
written in. Nothing here is called by the machine. -/

open Sys2Proof Sys2Proof.Machine

namespace Sys2Proof.Claims

/-- `t` is `s` with RES, RANGE and INVALID written, and CRC, ILL and the host's events as they were. -/
structure TcWrote (s t : State) (res : W32) (range invalid : Bool) : Prop where
  res : t.res = res
  range : t.flags.getLsbD 0 = range
  invalid : t.flags.getLsbD 1 = invalid
  ill : t.flags.getLsbD 2 = s.flags.getLsbD 2
  crc : t.crc = s.crc
  pending : t.pending = s.pending

/-- What a TOLIN writes, over the rationals: the classes of 41_tempconv R86 in their order, the clamp of R85. -/
def tolinRule (w : W32) (u : TUnit) : W32 × Bool × Bool :=
  if isNan w then (0x00000000#32, false, true)
  else if isInf w then ((if w.getLsbD 31 then 0xFFFF8000#32 else 0x00007FFF#32), true, false)
  else
    let i := exactTL (f32val w) u
    ((BitVec.ofInt 16 (sat16 i)).signExtend 32, decide (sat16 i ≠ i), false)

/-- A TC command. -/
def isTc : Instr → Bool
  | .crcInit | .crcFold _ | .crcLoad _ => false
  | _ => true

/-- The host event presents a word that decodes to a TC command. -/
def presentsTc : HostEvent → Bool
  | .reset => false
  | .command w =>
    match decode w with
    | .legal i => isTc i
    | .illegal _ => false

/-- The host event presents a word that decodes to a CRC command. -/
def presentsCrc : HostEvent → Bool
  | .reset => false
  | .command w =>
    match decode w with
    | .legal i => !isTc i
    | .illegal _ => false

/-- The outcome of letting the host's events run to the last, from `s` with those events pending. -/
def runEvents (evs : List HostEvent) (s : State) : Host.Outcome State Fault Refusal :=
  Host.Core.run Sys2Proof.core evs.length { s with pending := evs }

/-- `t` is reached from reset by some list of host events. -/
def Reachable (t : State) : Prop := ∃ evs, runEvents evs State.reset = .next t

/-- A byte as a polynomial over GF(2): bit `i` is the coefficient of x^i (40_crc R66). -/
noncomputable def bytePoly (b : Byte) : Polynomial (ZMod 2) :=
  ∑ i ∈ Finset.range 8, if b.getLsbD i then Polynomial.X ^ i else 0

/-- The message polynomial: the first byte has the highest powers (40_crc R66). -/
noncomputable def messagePoly (bs : List Byte) : Polynomial (ZMod 2) :=
  bs.foldl (fun p b => p * Polynomial.X ^ 8 + bytePoly b) 0

/-- G(x) = x^8 + x^2 + x^1 + 1 (40_crc R60). -/
noncomputable def generator : Polynomial (ZMod 2) :=
  Polynomial.X ^ 8 + Polynomial.X ^ 2 + Polynomial.X ^ 1 + 1

end Sys2Proof.Claims

open Sys2Proof.Claims

/-! ### Reset, stepping, decoding -/

/-- 10_state R20: the reset value of every register. -/
def Obligations.ResetStateHoldsTheSpecsValues : Prop :=
  State.reset.crc = 0x00#8 ∧ State.reset.res = 0x00000000#32 ∧ State.reset.flags = 0b000#3 ∧
    State.reset.range = false ∧ State.reset.invalid = false ∧ State.reset.ill = false

/-- 70_reset R125: the whole effect of a reset event, whatever the state, on the registers. That the host's later events stay is the
model's (log 1, log 2). -/
def Obligations.ResetEventWritesResetValues : Prop :=
  ∀ (s : State) (rest : List HostEvent), s.pending = .reset :: rest →
    step s = .next { crc := 0x00#8, res := 0x00000000#32, flags := 0b000#3, pending := rest }

/-- 00_scope R6: the block never acts on its own. The step with nothing pending is the model's choice (log 1). -/
def Obligations.NothingPendingChangesNothing : Prop :=
  ∀ s : State, s.pending = [] → step s = .next s

/-- A pending command word that decodes to a command is executed, on the state with that event taken (log 1). -/
def Obligations.StepRunsTheDecodedCommand : Prop :=
  ∀ (s : State) (w : Cmd) (rest : List HostEvent) (i : Instr), s.pending = .command w :: rest → decode w = .legal i →
    step s = exec i { s with pending := rest }

/-- 30_encoding R47: an ILLEGAL word sets ILL and nothing else, the next event is accepted normally, and the two kinds are treated
alike, for instance 0x1100000100 and 0x1000000001. -/
def Obligations.IllegalWordSetsIllOnly : Prop :=
  (∀ (s : State) (w : Cmd) (rest : List HostEvent) (why : IllegalWord), s.pending = .command w :: rest →
    decode w = .illegal why →
    ∃ t, step s = .next t ∧ t.flags.getLsbD 2 = true ∧ t.flags.getLsbD 0 = s.flags.getLsbD 0 ∧
      t.flags.getLsbD 1 = s.flags.getLsbD 1 ∧ t.crc = s.crc ∧ t.res = s.res ∧ t.pending = rest) ∧
  decode 0x1100000100#40 = .illegal .operandBitSet ∧ decode 0x1000000001#40 = .illegal .operandBitSet ∧
  decode 0xA500000011#40 = .illegal .unknownOp

/-- 60_exceptions R120, 00_scope R8: from any state, with any word next, there is exactly one next state; no fault, no refusal. -/
def Obligations.EveryWordHasExactlyOneNextState : Prop :=
  (∀ (s : State) (w : Cmd), ∃! t, step (s.present w) = .next t) ∧
  (∀ s : State, (∀ f, step s ≠ .fault f) ∧ (∀ r, step s ≠ .refused r))

/-- One word of each format, written out from 30_encoding R46 and 95_test_vectors 4. -/
def Obligations.SampleWordsDecodeAsListed : Prop :=
  decode 0x1000000000#40 = .legal .crcInit ∧ decode 0x11000000FF#40 = .legal (.crcFold 0xFF#8) ∧
    decode 0x1200000000#40 = .legal (.crcLoad 0x00#8) ∧ decode 0x23FFFFFFFF#40 = .legal (.tcTolinR 0xFFFFFFFF#32) ∧
    decode 0x2400008000#40 = .legal (.tcFromlinC 0x8000#16) ∧ decode 0x270000FFFF#40 = .legal (.tcFromlinR 0xFFFF#16) ∧
    decode 0x2400010000#40 = .illegal .operandBitSet ∧ decode 0x2800000000#40 = .illegal .unknownOp

/-- Decoding the word of a well-formed command gives the command back, every operand at every value. -/
def Obligations.DecodeOfEncodeGivesTheCommand : Prop :=
  ∀ i : Instr, i.WellFormed → decode (encode i) = .legal i

/-- Each legal word is the word of the command it decodes to: no two words mean one command. -/
def Obligations.LegalWordIsTheEncodingOfItsCommand : Prop :=
  ∀ (w : Cmd) (i : Instr), decode w = .legal i → encode i = w

/-- 30_encoding R46: a word decodes to a command exactly when it is that command's word (which gives the counts, the operand widths
being 0, 8, 32 and 16 bits); it decodes to a command of a row exactly when `(cmd AND mask) = match`; no word is two rows'. -/
def Obligations.DecoderAgreesWithTheOpcodeTable : Prop :=
  (∀ (w : Cmd) (i : Instr), decode w = .legal i ↔ w = encode i) ∧
  (∀ w : Cmd, ∀ r ∈ opcodeTable, r.selects w = true ↔ ∃ i, decode w = .legal i ∧ i.row = r) ∧
  (∀ w : Cmd, ∀ r ∈ opcodeTable, ∀ r' ∈ opcodeTable, r.selects w = true → r'.selects w = true → r = r')

/-- 30_encoding R42, with the unit codes of R43: which group and function a legal word has, and which words have none. -/
def Obligations.GroupAndFunctionSelectTheCommand : Prop :=
  (∀ w : Cmd, grpOf w ≠ 1#4 → grpOf w ≠ 2#4 → ∃ why, decode w = .illegal why) ∧
  (∀ w : Cmd, grpOf w = 1#4 → 3 ≤ (fnOf w).toNat → ∃ why, decode w = .illegal why) ∧
  (∀ w : Cmd, grpOf w = 2#4 → (fnOf w).getLsbD 3 = true → ∃ why, decode w = .illegal why) ∧
  (∀ (w : Cmd) (i : Instr), decode w = .legal i → grpOf w = 1#4 →
    (fnOf w = 0#4 ∧ i = .crcInit) ∨ (fnOf w = 1#4 ∧ ∃ b, i = .crcFold b) ∨ (fnOf w = 2#4 ∧ ∃ b, i = .crcLoad b)) ∧
  (∀ (w : Cmd) (i : Instr), decode w = .legal i → grpOf w = 2#4 →
    (fnOf w).getLsbD 3 = false ∧ ∃ u : TUnit, (fnOf w).extractLsb' 0 2 = u.code ∧
      (((fnOf w).getLsbD 2 = false ∧ ∃ v, i = .tolin u v) ∨ ((fnOf w).getLsbD 2 = true ∧ ∃ r, i = .fromlin u r))) ∧
  TUnit.celsius.code = 0b00#2 ∧ TUnit.fahrenheit.code = 0b01#2 ∧ TUnit.kelvin.code = 0b10#2 ∧ TUnit.raw.code = 0b11#2 ∧
  decode 0#40 = .illegal .unknownOp ∧ decode 0xFFFFFFFFFF#40 = .illegal .unknownOp

/-- 20_memory R35: the state after two event lists one after the other is the second list's run from where the first one ended. -/
def Obligations.EventSequencesCompose : Prop :=
  ∀ (evs evs' : List HostEvent) (s : State),
    ∃ t, runEvents evs s = .next t ∧ t.pending = [] ∧ runEvents (evs ++ evs') s = runEvents evs' t

/-! ### The CRC unit -/

/-- 40_crc R61: the bit step, bit by bit, and its example. -/
def Obligations.BitStepEquations : Prop :=
  (∀ (c : Byte) (m : Bool),
    let fb := c.getLsbD 7 ^^ m
    let n := crcBit c m
    n.getLsbD 7 = c.getLsbD 6 ∧ n.getLsbD 6 = c.getLsbD 5 ∧ n.getLsbD 5 = c.getLsbD 4 ∧ n.getLsbD 4 = c.getLsbD 3 ∧
      n.getLsbD 3 = c.getLsbD 2 ∧ n.getLsbD 2 = (c.getLsbD 1 ^^ fb) ∧ n.getLsbD 1 = (c.getLsbD 0 ^^ fb) ∧ n.getLsbD 0 = fb) ∧
  crcBit 0x81#8 false = 0x05#8

/-- 40_crc R68: CRC.INIT seeds CRC and changes nothing else; its one word. -/
def Obligations.CrcInitSeedsTheCrc : Prop :=
  (∀ s : State, exec .crcInit s = .next { s with crc := 0x00#8 }) ∧ decode 0x1000000000#40 = .legal .crcInit

/-- 40_crc R69: CRC.FOLD folds its byte into CRC and changes nothing else; its words; the corner cases of the rule that follow from R62.
The rule's remark that a zero byte is a no-op for CRC = 0x00 only is false of R62 and of the spec's own table, T[0xFD] = 0xFD (log 9):
the last clause says for which CRC it is one. -/
def Obligations.CrcFoldFoldsItsByte : Prop :=
  (∀ (s : State) (b : Byte), exec (.crcFold b) s = .next { s with crc := crc8 s.crc b }) ∧
  (∀ b : Byte, decode (0x11#8 ++ (0#24 ++ b : W32)) = .legal (.crcFold b)) ∧
  (∀ s : State, exec (.crcFold s.crc) s = .next { s with crc := 0x00#8 }) ∧
  crc8 0x01#8 0x00#8 = 0x07#8 ∧ crc8 0x05#8 0x07#8 = 0x0E#8 ∧
  (∀ c : Byte, crc8 c 0x00#8 = c ↔ c = 0x00#8 ∨ c = 0xFD#8)

/-- 40_crc R70: CRC.LOAD writes its byte to CRC and changes nothing else; its words; loading 0 is CRC.INIT; the examples. -/
def Obligations.CrcLoadWritesItsByte : Prop :=
  (∀ (s : State) (b : Byte), exec (.crcLoad b) s = .next { s with crc := b }) ∧
  (∀ b : Byte, decode (0x12#8 ++ (0#24 ++ b : W32)) = .legal (.crcLoad b)) ∧
  (∀ s : State, exec (.crcLoad 0x00#8) s = exec .crcInit s) ∧
  crc8 0xA5#8 0xA5#8 = 0x00#8 ∧ crc8 0xA5#8 0x5A#8 = 0xF3#8

/-- 40_crc R63: XOR the byte in first, then shift eight times; so for a whole message, from any register value. -/
def Obligations.FoldEqualsXorFirstForm : Prop :=
  (∀ prev byte : Byte, crc8 prev byte = crc8XorFirst prev byte) ∧
  (∀ (bs : List Byte) (c : Byte), bs.foldl crc8 c = bs.foldl crc8XorFirst c)

/-- 40_crc R64: the eight equations, and that the fold depends on `prev XOR byte` only. -/
def Obligations.FoldMeetsTheEightEquations : Prop :=
  (∀ prev byte : Byte, ∀ row ∈ crc8Taps, (crc8 prev byte).getLsbD row.1 = xorOfBits (prev ^^^ byte) row.2) ∧
  (∀ p b p' b' : Byte, p ^^^ b = p' ^^^ b' → crc8 p b = crc8 p' b')

/-- 40_crc R65: the table form, with the 256 entries as 95_test_vectors prints them, so for a whole message; the table's linearity. -/
def Obligations.FoldIsTableLookup : Prop :=
  (∀ prev byte : Byte, crcTable[(prev ^^^ byte).toNat]? = some (crc8 prev byte)) ∧
  (∀ bs : List Byte, crc8Msg bs = bs.foldl (fun c b => crcTable.getD (c ^^^ b).toNat 0x00#8) 0x00#8) ∧
  (∀ a b : Byte, crc8 0#8 (a ^^^ b) = crc8 0#8 a ^^^ crc8 0#8 b) ∧ crc8 0#8 0x00#8 = 0x00#8 ∧
  crc8 0#8 0x01#8 = 0x07#8 ∧ crc8 0#8 0x02#8 = 0x0E#8 ∧ crc8 0#8 0x04#8 = 0x1C#8 ∧ crc8 0#8 0x08#8 = 0x38#8 ∧
  crc8 0#8 0x10#8 = 0x70#8 ∧ crc8 0#8 0x20#8 = 0xE0#8 ∧ crc8 0#8 0x40#8 = 0xC7#8 ∧ crc8 0#8 0x80#8 = 0x89#8

/-- 40_crc R66: the fold, and the CRC of a message, are remainders of polynomial division by G(x) over GF(2). -/
def Obligations.CrcIsThePolynomialRemainder : Prop :=
  (∀ prev byte : Byte,
    bytePoly (crc8 prev byte) = Polynomial.modByMonic ((bytePoly prev + bytePoly byte) * Polynomial.X ^ 8) generator) ∧
  (∀ bs : List Byte, bytePoly (crc8Msg bs) = Polynomial.modByMonic (messagePoly bs * Polynomial.X ^ 8) generator)

/-- 40_crc R75 (e): linearity over GF(2), of the fold and of equal-length messages. -/
def Obligations.CrcIsLinear : Prop :=
  (∀ p p' b b' : Byte, crc8 (p ^^^ p') (b ^^^ b') = crc8 p b ^^^ crc8 p' b') ∧
  (∀ as bs : List Byte, as.length = bs.length →
    crc8Msg (List.zipWith (· ^^^ ·) as bs) = crc8Msg as ^^^ crc8Msg bs)

/-- 40_crc R75 (c), (d): for a fixed argument the fold is a bijection in the other, and it is 0 only where the two are equal. -/
def Obligations.FoldIsBijectiveInEachArgument : Prop :=
  (∀ p : Byte, Function.Bijective (crc8 p)) ∧ (∀ b : Byte, Function.Bijective fun p => crc8 p b) ∧
  (∀ p b : Byte, crc8 p b = 0x00#8 ↔ b = p)

/-- 40_crc R75 (f): a corruption of one byte of a message, whatever it is, changes the CRC. -/
def Obligations.OneByteCorruptionChangesTheCrc : Prop :=
  ∀ (before after : List Byte) (b b' : Byte), b ≠ b' →
    crc8Msg (before ++ b :: after) ≠ crc8Msg (before ++ b' :: after)

/-- 40_crc R74, R75 (g): folding a received PEC gives 0 exactly when it is the computed one, and that CRC.FOLD executes so. -/
def Obligations.FoldingThePecGivesZeroExactlyWhenGood : Prop :=
  (∀ (bs : List Byte) (pecRx : Byte), crc8Msg (bs ++ [pecRx]) = 0x00#8 ↔ pecRx = crc8Msg bs) ∧
  (∀ (s : State) (pecRx : Byte), ∃ t, exec (.crcFold pecRx) s = .next t ∧ (t.crcO = 0x00#8 ↔ pecRx = s.crc))

/-- 70_reset R128: folding the same bytes from a CRC that was not seeded gives the PEC only if that CRC was 0. -/
def Obligations.UnseededFoldsMissThePec : Prop :=
  ∀ (bs : List Byte) (c : Byte), bs.foldl crc8 c = crc8Msg bs ↔ c = 0x00#8

/-- 30_encoding R51, 40_crc R71 to R73: the expansions, and that after them CRC is the PEC over the listed bytes, in six and five
steps, RES and FLAGS as they were, from every state. -/
def Obligations.PecSequencesLeaveThePecInCrc : Prop :=
  (∀ (sa : BitVec 7) (reg lo hi : Byte) (s : State),
    let wa : Byte := sa ++ 0b0#1
    let ra : Byte := sa ++ 0b1#1
    pecRead sa reg lo hi = [.crcInit, .crcFold wa, .crcFold reg, .crcFold ra, .crcFold lo, .crcFold hi] ∧
    runEvents (presents (pecRead sa reg lo hi)) s =
      .next { s with crc := crc8Msg [wa, reg, ra, lo, hi], pending := [] }) ∧
  (∀ (sa : BitVec 7) (reg lo hi : Byte) (s : State),
    let wa : Byte := sa ++ 0b0#1
    pecWrite sa reg lo hi = [.crcInit, .crcFold wa, .crcFold reg, .crcFold lo, .crcFold hi] ∧
    runEvents (presents (pecWrite sa reg lo hi)) s = .next { s with crc := crc8Msg [wa, reg, lo, hi], pending := [] })

/-- 95_test_vectors 1.1, 1.2, 2.3: the reference read's PEC, the address bytes, and the check value of 40_crc R75 (h). -/
def Obligations.ReferenceVectorsOfTheCrc : Prop :=
  readSequence 0x5A#7 0x07#8 0xAD#8 0x27#8 = [0xB4#8, 0x07#8, 0xB5#8, 0xAD#8, 0x27#8] ∧
    crc8Msg [0xB4#8, 0x07#8, 0xB5#8, 0xAD#8, 0x27#8] = 0x02#8 ∧ crc8Msg [0xB4#8, 0x24#8, 0x33#8, 0x33#8] = 0x77#8 ∧
    crc8Msg [0x31#8, 0x32#8, 0x33#8, 0x34#8, 0x35#8, 0x36#8, 0x37#8, 0x38#8, 0x39#8] = 0xF4#8

/-! ### The TC unit -/

/-- 41_tempconv R88, with R83 to R86: TC.TOLIN.C on every operand, over the rationals; its words. -/
def Obligations.TolinCelsiusConvertsExactly : Prop :=
  (∀ (s : State) (w : W32), ∃ t, exec (.tcTolinC w) s = .next t ∧
    TcWrote s t (tolinRule w .celsius).1 (tolinRule w .celsius).2.1 (tolinRule w .celsius).2.2) ∧
  (∀ w : W32, decode (0x20#8 ++ w) = .legal (.tcTolinC w)) ∧
  (∀ v : Rat, exactTL v .celsius = rha (50 * v + 27315 / 2))

/-- 41_tempconv R89, with R83 to R86: TC.TOLIN.F on every operand, over the rationals; its words. -/
def Obligations.TolinFahrenheitConvertsExactly : Prop :=
  (∀ (s : State) (w : W32), ∃ t, exec (.tcTolinF w) s = .next t ∧
    TcWrote s t (tolinRule w .fahrenheit).1 (tolinRule w .fahrenheit).2.1 (tolinRule w .fahrenheit).2.2) ∧
  (∀ w : W32, decode (0x21#8 ++ w) = .legal (.tcTolinF w)) ∧
  (∀ v : Rat, exactTL v .fahrenheit = rha ((500 * v + 229835) / 18))

/-- 41_tempconv R90, with R83 to R86: TC.TOLIN.K on every operand, over the rationals; its words. -/
def Obligations.TolinKelvinConvertsExactly : Prop :=
  (∀ (s : State) (w : W32), ∃ t, exec (.tcTolinK w) s = .next t ∧
    TcWrote s t (tolinRule w .kelvin).1 (tolinRule w .kelvin).2.1 (tolinRule w .kelvin).2.2) ∧
  (∀ w : W32, decode (0x22#8 ++ w) = .legal (.tcTolinK w))

/-- 41_tempconv R91, with R83 to R86: TC.TOLIN.R on every operand, over the rationals; its words. -/
def Obligations.TolinRawTruncates : Prop :=
  (∀ (s : State) (w : W32), ∃ t, exec (.tcTolinR w) s = .next t ∧
    TcWrote s t (tolinRule w .raw).1 (tolinRule w .raw).2.1 (tolinRule w .raw).2.2) ∧
  (∀ w : W32, decode (0x23#8 ++ w) = .legal (.tcTolinR w))

/-- 41_tempconv R92: TC.FROMLIN.C writes the nearest f32 to (20*raw - 273150)/1000, for every raw; its words. -/
def Obligations.FromlinCelsiusRoundsOnce : Prop :=
  (∀ (s : State) (r : Half), ∃ t w, exec (.tcFromlinC r) s = .next t ∧ TcWrote s t w false false ∧
    IsF32Rne (exactFL r.toInt .celsius) w ∧ exactFL r.toInt .celsius = (20 * (r.toInt : Rat) - 273150) / 1000) ∧
  (∀ r : Half, decode (0x24#8 ++ (0#16 ++ r : W32)) = .legal (.tcFromlinC r))

/-- 41_tempconv R93: TC.FROMLIN.F writes the nearest f32 to (36*raw - 459670)/1000, for every raw; its words. -/
def Obligations.FromlinFahrenheitRoundsOnce : Prop :=
  (∀ (s : State) (r : Half), ∃ t w, exec (.tcFromlinF r) s = .next t ∧ TcWrote s t w false false ∧
    IsF32Rne (exactFL r.toInt .fahrenheit) w ∧ exactFL r.toInt .fahrenheit = (36 * (r.toInt : Rat) - 459670) / 1000) ∧
  (∀ r : Half, decode (0x25#8 ++ (0#16 ++ r : W32)) = .legal (.tcFromlinF r))

/-- 41_tempconv R94: TC.FROMLIN.K writes the nearest f32 to (20*raw)/1000, for every raw; its words. -/
def Obligations.FromlinKelvinRoundsOnce : Prop :=
  (∀ (s : State) (r : Half), ∃ t w, exec (.tcFromlinK r) s = .next t ∧ TcWrote s t w false false ∧
    IsF32Rne (exactFL r.toInt .kelvin) w ∧ exactFL r.toInt .kelvin = 20 * (r.toInt : Rat) / 1000) ∧
  (∀ r : Half, decode (0x26#8 ++ (0#16 ++ r : W32)) = .legal (.tcFromlinK r))

/-- 41_tempconv R95: TC.FROMLIN.R writes the nearest f32 to raw, which is exact; its words. -/
def Obligations.FromlinRawIsExact : Prop :=
  (∀ (s : State) (r : Half), ∃ t w, exec (.tcFromlinR r) s = .next t ∧ TcWrote s t w false false ∧
    IsF32Rne r.toInt w ∧ f32val w = r.toInt) ∧
  (∀ r : Half, decode (0x27#8 ++ (0#16 ++ r : W32)) = .legal (.tcFromlinR r))

/-- 30_encoding R45: at most one word is `f32rne(q)`, so the FROMLIN statements fix every bit of RES. -/
def Obligations.NearestWordIsUnique : Prop :=
  ∀ (q : Rat) (w w' : W32), IsF32Rne q w → IsF32Rne q w' → w = w'

/-- 30_encoding R45: the integer rounding gives `f32rne(n/d)` on the whole domain of R45. -/
def Obligations.IntegerRoundingIsNearestTiesToEven : Prop :=
  ∀ (n : Int) (d : Nat), 0 < d → |(n : Rat) / d| < 2 ^ 127 → IsF32Rne ((n : Rat) / d) (f32rne n d)

/-- 30_encoding R45, 41_tempconv R83, R84: the integer evaluation of TL is TL of the operand's exact value. -/
def Obligations.IntegerConversionIsTheExactFormula : Prop :=
  ∀ (w : W32) (u : TUnit), isFinite w = true →
    f32val w = (f32Units w : Rat) / 2 ^ 149 ∧ linearOf (f32Units w) u = exactTL (f32val w) u

/-- 41_tempconv R101: the integer forms of FL, their ranges, where they are 0, and how small they are elsewhere. -/
def Obligations.ThousandthsFormsOfFromlin : Prop :=
  ∀ raw : Int, -32768 ≤ raw → raw ≤ 32767 →
    (∀ u, exactFL raw u = (thousandths raw u : Rat) / 1000) ∧
    thousandths raw .raw = 1000 * raw ∧ thousandths raw .kelvin = 20 * raw ∧
    thousandths raw .celsius = 20 * raw - 273150 ∧ thousandths raw .fahrenheit = 36 * raw - 459670 ∧
    (-32768000 ≤ thousandths raw .raw ∧ thousandths raw .raw ≤ 32767000) ∧
    (-655360 ≤ thousandths raw .kelvin ∧ thousandths raw .kelvin ≤ 655340) ∧
    (-928510 ≤ thousandths raw .celsius ∧ thousandths raw .celsius ≤ 382190) ∧
    (-1639318 ≤ thousandths raw .fahrenheit ∧ thousandths raw .fahrenheit ≤ 719942) ∧
    (∀ u, thousandths raw u = 0 ↔ raw = 0 ∧ (u = .kelvin ∨ u = .raw)) ∧
    (raw ≠ 0 → 20 ≤ |thousandths raw .kelvin| ∧ 1000 ≤ |thousandths raw .raw|) ∧
    10 ≤ |thousandths raw .celsius| ∧ 14 ≤ |thousandths raw .fahrenheit|

/-- 41_tempconv R85: the clamp, when RANGE is set on a finite operand, and the thresholds on the exact value. -/
def Obligations.RangeThresholds : Prop :=
  (∀ i : Int, sat16 i = max (-32768) (min 32767 i)) ∧
  (∀ (s : State) (w : W32) (u : TUnit), isFinite w = true →
    ∃ t, exec (.tolin u w) s = .next t ∧ t.res.toInt = sat16 (exactTL (f32val w) u) ∧
      (t.range = true ↔ sat16 (exactTL (f32val w) u) ≠ exactTL (f32val w) u)) ∧
  (∀ v : Rat, sat16 (exactTL v .kelvin) ≠ exactTL v .kelvin ↔ v ≥ 65535 / 100 ∨ v ≤ -65537 / 100) ∧
  (∀ v : Rat, sat16 (exactTL v .celsius) ≠ exactTL v .celsius ↔ v ≥ 3822 / 10 ∨ v ≤ -92852 / 100) ∧
  (∀ v : Rat, sat16 (exactTL v .fahrenheit) ≠ exactTL v .fahrenheit ↔ v ≥ 71996 / 100 ∨ v ≤ -1639336 / 1000) ∧
  (∀ v : Rat, sat16 (exactTL v .raw) ≠ exactTL v .raw ↔ v ≥ 32768 ∨ v ≤ -32769)

/-- 41_tempconv R87: no FROMLIN result is a NaN, an infinity, a subnormal or -0.0. -/
def Obligations.FromlinResultIsNormalOrPlusZero : Prop :=
  ∀ (s : State) (u : TUnit) (r : Half), ∃ t, exec (.fromlin u r) s = .next t ∧
    (t.res = 0x00000000#32 ∨ (1 ≤ f32Exp t.res ∧ f32Exp t.res ≤ 254))

/-- 41_tempconv R96: which TC command writes which flags; RANGE and INVALID never both; ILL and CRC
neither read nor written. -/
def Obligations.TcCommandsWriteRangeAndInvalid : Prop :=
  (∀ (u : TUnit) (r : Half), ∃ v, ∀ s : State, ∃ t, exec (.fromlin u r) s = .next t ∧ t.res = v ∧
    t.range = false ∧ t.invalid = false ∧ t.ill = s.ill ∧ t.crc = s.crc) ∧
  (∀ (u : TUnit) (w : W32), ∃ v, ∀ s : State, ∃ t, exec (.tolin u w) s = .next t ∧ t.res = v ∧
    t.range = (tolinRule w u).2.1 ∧ t.invalid = (tolinRule w u).2.2 ∧ ¬(t.range = true ∧ t.invalid = true) ∧
    (isNan w = true → t.invalid = true ∧ t.range = false) ∧ t.ill = s.ill ∧ t.crc = s.crc)

/-- 10_state R12, the TOLIN half: RES[15:0] is the i16 result, RES[31:16] are sixteen copies of RES[15]. -/
def Obligations.TolinResultIsSignExtended : Prop :=
  ∀ (s : State) (u : TUnit) (w : W32), ∃ t, exec (.tolin u w) s = .next t ∧
    (∀ k, k < 16 → t.res.getLsbD (16 + k) = t.res.getLsbD 15) ∧
    (t.res.extractLsb' 0 16).toInt =
      (if isNan w then 0 else if isInf w then (if f32Sign w then -32768 else 32767) else sat16 (exactTL (f32val w) u))

/-- 41_tempconv R100: a TC command's result depends on the command alone. -/
def Obligations.TcResultDependsOnTheWordAlone : Prop :=
  ∀ (i : Instr) (s s' : State), isTc i = true →
    ∃ t t', exec i s = .next t ∧ exec i s' = .next t' ∧ t.res = t'.res ∧ t.range = t'.range ∧ t.invalid = t'.invalid

/-- 41_tempconv R97: the round trip of a whole or half Celsius degree from -50 to 150, with the numbers the rule gives:
the bound is the error of the worst case, v = 64. -/
def Obligations.CelsiusRoundTripStaysWithinTolerance : Prop :=
  (∀ k : Int, -100 ≤ k → k ≤ 300 →
    (∃ w, isFinite w = true ∧ f32val w = (k : Rat) / 2) ∧
    exactTL ((k : Rat) / 2) .celsius = 25 * k + 13658 ∧ exactFL (25 * k + 13658) .celsius = (k : Rat) / 2 + 1 / 100 ∧
    ∀ (s : State) (w : W32), isFinite w = true → f32val w = (k : Rat) / 2 →
      ∃ t t', exec (.tcTolinC w) s = .next t ∧ t.res.toInt = 25 * k + 13658 ∧
        exec (.tcFromlinC (t.res.extractLsb' 0 16)) t = .next t' ∧ isFinite t'.res = true ∧
        |f32val t'.res - (k : Rat) / 2| ≤ 1000213623046875 / 100000000000000000) ∧
  f32rne (thousandths (25 * 128 + 13658) .celsius) 1000 = 0x4280051F#32 ∧
  f32val 0x4280051F#32 = 64 + 1000213623046875 / 100000000000000000

/-- 41_tempconv R98 (a): the formulas are exact inverses on counts. -/
def Obligations.ExactFormulasInvertOnCounts : Prop :=
  ∀ (raw : Int) (u : TUnit), exactTL (exactFL raw u) u = raw

/-- 41_tempconv R98 (b): FROMLIN, then TOLIN of its result, gives the count back without a flag, for every count and unit. -/
def Obligations.FromlinThenTolinGivesTheCountBack : Prop :=
  ∀ (s : State) (u : TUnit) (r : Half), ∃ t t', exec (.fromlin u r) s = .next t ∧ exec (.tolin u t.res) t = .next t' ∧
    t'.res.extractLsb' 0 16 = r ∧ t'.res = r.signExtend 32 ∧ t'.range = false ∧ t'.invalid = false

/-- 41_tempconv R98 (c), the exact part: how far the other composition is from the operand; it holds of every rational, so of every
finite operand that sets no RANGE. -/
def Obligations.TolinThenFromlinErrorBound : Prop :=
  ∀ v : Rat,
    |exactFL (exactTL v .celsius) .celsius - v| ≤ 1 / 100 ∧ |exactFL (exactTL v .kelvin) .kelvin - v| ≤ 1 / 100 ∧
    |exactFL (exactTL v .fahrenheit) .fahrenheit - v| ≤ 18 / 1000 ∧ |exactFL (exactTL v .raw) .raw - v| < 1

/-- 41_tempconv R98 (d): the formulas and the commands are monotone. -/
def Obligations.ConversionsAreMonotone : Prop :=
  (∀ u, StrictMono fun raw : Int => exactFL raw u) ∧ (∀ u, Monotone fun v : Rat => exactTL v u) ∧
  (∀ (s : State) (u : TUnit) (w w' : W32), isFinite w = true → isFinite w' = true → f32val w ≤ f32val w' →
    ∃ t t', exec (.tolin u w) s = .next t ∧ exec (.tolin u w') s = .next t' ∧ t.res.toInt ≤ t'.res.toInt) ∧
  (∀ (s : State) (u : TUnit) (r r' : Half), r.toInt < r'.toInt →
    ∃ t t', exec (.fromlin u r) s = .next t ∧ exec (.fromlin u r') s = .next t' ∧ f32val t.res < f32val t'.res)

/-- 41_tempconv R98 (e): one temperature in two units gives one count. -/
def Obligations.SameTemperatureSameCount : Prop :=
  exactTL 25 .celsius = 14908 ∧ exactTL 77 .fahrenheit = 14908 ∧ exactTL 100 .celsius = 18658 ∧
    exactTL 212 .fahrenheit = 18658 ∧ exactTL 0 .celsius = 13658 ∧ exactTL 32 .fahrenheit = 13658

/-! ### The whole block -/

/-- 00_scope R9: what each kind of command reads and writes. The frames say what is unchanged; the second and third clauses that a
CRC command reads CRC only and a TC command no state. -/
def Obligations.UnitsAreIndependent : Prop :=
  (∀ (i : Instr) (s : State), isTc i = false →
    ∃ t, exec i s = .next t ∧ t.res = s.res ∧ t.flags = s.flags ∧ t.pending = s.pending) ∧
  (∀ (i : Instr) (s s' : State), isTc i = false → s.crc = s'.crc →
    ∃ t t', exec i s = .next t ∧ exec i s' = .next t' ∧ t.crc = t'.crc) ∧
  (∀ (i : Instr) (s s' : State), isTc i = true →
    ∃ t t', exec i s = .next t ∧ exec i s' = .next t' ∧ t.res = t'.res ∧ t.range = t'.range ∧ t.invalid = t'.invalid ∧
      t.crc = s.crc ∧ t.ill = s.ill ∧ t.pending = s.pending) ∧
  (∀ (s : State) (w : Cmd) (rest : List HostEvent) (why : IllegalWord), s.pending = .command w :: rest →
    decode w = .illegal why → ∃ t, step s = .next t ∧ t.crc = s.crc ∧ t.res = s.res ∧ t.range = s.range ∧
      t.invalid = s.invalid ∧ t.ill = true)

/-- 10_state R14, R22: every step keeps "RANGE and INVALID are not both 1". -/
def Obligations.StepKeepsFlagsLegal : Prop :=
  ∀ s t : State, FlagsLegal s → step s = .next t → FlagsLegal t

/-- 10_state R20: the flags of the reset state are legal. -/
def Obligations.ResetFlagsAreLegal : Prop := FlagsLegal State.reset

/-- 60_exceptions R115: RANGE and INVALID describe the last TC command only; ILL is sticky, cleared only by reset; ILL changes the
behaviour of no later command. -/
def Obligations.IllIsStickyAndSteersNothing : Prop :=
  (∀ (i : Instr) (s s' : State), isTc i = true →
    ∃ t t', exec i s = .next t ∧ exec i s' = .next t' ∧ t.range = t'.range ∧ t.invalid = t'.invalid) ∧
  (∀ s t : State, step s = .next t → s.ill = true → t.ill = true ∨ ∃ rest, s.pending = .reset :: rest) ∧
  (∀ (s : State) (rest : List HostEvent), s.pending = .reset :: rest → ∃ t, step s = .next t ∧ t.ill = false) ∧
  (∀ s s' : State, s.crc = s'.crc → s.res = s'.res → s.range = s'.range → s.invalid = s'.invalid → s.pending = s'.pending →
    ∃ t t', step s = .next t ∧ step s' = .next t' ∧ t.crc = t'.crc ∧ t.res = t'.res ∧ t.range = t'.range ∧
      t.invalid = t'.invalid ∧ t.pending = t'.pending)

/-- 10_state R14: no command reads any flag, and none reads RES: what a run leaves in CRC does not depend on them. -/
def Obligations.FlagsAndResSteerNoLaterCrc : Prop :=
  ∀ (evs : List HostEvent) (s s' : State), s.crc = s'.crc →
    ∃ t t', runEvents evs s = .next t ∧ runEvents evs s' = .next t' ∧ t.crc = t'.crc

/-- 60_exceptions R113: a command raises at most one condition: an illegal word leaves RANGE and INVALID as they were, a command
leaves ILL as it was and sets at most one of the other two where it sets any. -/
def Obligations.AtMostOneConditionPerCommand : Prop :=
  (∀ (s : State) (w : Cmd) (rest : List HostEvent) (why : IllegalWord), s.pending = .command w :: rest →
    decode w = .illegal why → ∃ t, step s = .next t ∧ t.range = s.range ∧ t.invalid = s.invalid) ∧
  (∀ (i : Instr) (s : State), ∃ t, exec i s = .next t ∧ t.ill = s.ill ∧
    ((isTc i = false ∧ t.flags = s.flags) ∨ (isTc i = true ∧ ¬(t.range = true ∧ t.invalid = true)))) ∧
  (∀ (s : State) (u : TUnit) (w : W32), ∃ t, exec (.tolin u w) s = .next t ∧
    (isNan w = true → t.invalid = true ∧ t.range = false) ∧
    (isInf w = true → t.invalid = false ∧ t.range = true) ∧ (isFinite w = true → t.invalid = false))

/-- 70_reset R129: TC commands may be interleaved with a CRC sequence freely, and CRC commands with TC commands: taking them out of
a run leaves the other unit's registers at the end as they were. -/
def Obligations.InterleavingTheUnitsIsInvisible : Prop :=
  (∀ (evs : List HostEvent) (s : State), ∃ t t', runEvents evs s = .next t ∧
    runEvents (evs.filter fun e => !presentsTc e) s = .next t' ∧ t.crc = t'.crc ∧ t.ill = t'.ill) ∧
  (∀ (evs : List HostEvent) (s : State), ∃ t t', runEvents evs s = .next t ∧
    runEvents (evs.filter fun e => !presentsCrc e) s = .next t' ∧ t.res = t'.res ∧ t.flags = t'.flags)

/-- 10_state R22: which values the registers reach from reset: CRC all 256, RES exactly the sign-extended counts and the FROMLIN
results, FLAGS exactly six values; and none is trapped on: from every state, whatever its registers hold, every host event is executed
to a next state. -/
def Obligations.ReachableRegisterValues : Prop :=
  (∀ c : Byte, ∃ t, Reachable t ∧ t.crc = c) ∧
  (∀ v : W32, (∃ t, Reachable t ∧ t.res = v) ↔
    (∃ x : Half, v = x.signExtend 32) ∨ ∃ (u : TUnit) (r : Half), IsF32Rne (exactFL r.toInt u) v) ∧
  (∀ f : BitVec 3, (∃ t, Reachable t ∧ t.flags = f) ↔
    f ∈ [0b000#3, 0b001#3, 0b010#3, 0b100#3, 0b101#3, 0b110#3]) ∧
  (∀ (s : State) (e : HostEvent), ∃ t, step { s with pending := e :: s.pending } = .next t)

/-- 30_encoding R49: the word each written command stands for, and the operands refused; every word assembled decodes to its command.
That a decimal literal of 2^127 or more is refused is the model's choice (DESIGN CHOICE, log 6): R45 gives `f32rne` no meaning there.
-/
def Obligations.AssembledLinesDecodeToTheirCommands : Prop :=
  assemble .crcInit = some [0x1000000000#40] ∧
  (∀ b : Nat, assemble (.crcFold b) = if b < 256 then some [(0x11#8 ++ BitVec.ofNat 32 b : Cmd)] else none) ∧
  (∀ b : Nat, assemble (.crcLoad b) = if b < 256 then some [(0x12#8 ++ BitVec.ofNat 32 b : Cmd)] else none) ∧
  (∀ (u : TUnit) (w : Nat), assemble (.tcTolin u (.word w)) =
    if w < 2 ^ 32 then some [((0x20#8 + u.code.setWidth 8) ++ BitVec.ofNat 32 w : Cmd)] else none) ∧
  (∀ (u : TUnit) (num : Int) (places : Nat), |(num : Rat) / 10 ^ places| < 2 ^ 127 →
    ∃ w : W32, assemble (.tcTolin u (.decimal num places)) = some [((0x20#8 + u.code.setWidth 8) ++ w : Cmd)] ∧
      IsF32Rne ((num : Rat) / 10 ^ places) w) ∧
  (∀ (u : TUnit) (num : Int) (places : Nat), 2 ^ 127 ≤ |(num : Rat) / 10 ^ places| →
    assemble (.tcTolin u (.decimal num places)) = none) ∧
  (∀ (u : TUnit) (r : Nat), assemble (.tcFromlin u (.word r)) =
    if r < 65536 then some [((0x24#8 + u.code.setWidth 8) ++ BitVec.ofNat 32 r : Cmd)] else none) ∧
  (∀ (u : TUnit) (r : Int), assemble (.tcFromlin u (.decimal r)) =
    if -32768 ≤ r ∧ r ≤ 32767 then some [((0x24#8 + u.code.setWidth 8) ++ (0#16 ++ BitVec.ofInt 16 r : W32) : Cmd)] else none) ∧
  (∀ (l : AsmLine) (ws : List Cmd), assemble l = some ws → ws.map decode = (expand l).map .legal)

/-- 30_encoding R51, with R49 for each word: the words the two pseudo-commands assemble to, `sa << 1` and `(sa << 1) OR 1` being
`2 * sa` and `2 * sa + 1`, and the operands refused: `sa` over 0x7F (92 D24) and a byte over 255. -/
def Obligations.WrittenPecLinesAssembleToTheirSequences : Prop :=
  (∀ sa reg lo hi : Nat, assemble (.pecRead sa reg lo hi) =
    if sa ≤ 0x7F ∧ reg < 256 ∧ lo < 256 ∧ hi < 256 then
      some [0x1000000000#40, (0x11#8 ++ BitVec.ofNat 32 (2 * sa) : Cmd), (0x11#8 ++ BitVec.ofNat 32 reg : Cmd),
        (0x11#8 ++ BitVec.ofNat 32 (2 * sa + 1) : Cmd), (0x11#8 ++ BitVec.ofNat 32 lo : Cmd),
        (0x11#8 ++ BitVec.ofNat 32 hi : Cmd)]
    else none) ∧
  (∀ sa reg lo hi : Nat, assemble (.pecWrite sa reg lo hi) =
    if sa ≤ 0x7F ∧ reg < 256 ∧ lo < 256 ∧ hi < 256 then
      some [0x1000000000#40, (0x11#8 ++ BitVec.ofNat 32 (2 * sa) : Cmd), (0x11#8 ++ BitVec.ofNat 32 reg : Cmd),
        (0x11#8 ++ BitVec.ofNat 32 lo : Cmd), (0x11#8 ++ BitVec.ofNat 32 hi : Cmd)]
    else none)
end

