-- ==== Sys2Proof/Laws/Convert.lean ====
section
/-! SUPPORT. What the integer roundings mean over the rationals. -/

namespace Sys2Proof.Machine

/-- Integer division rounds to the floor of the quotient. -/
theorem floor_ratio (n : Int) (d : Nat) : ⌊(n : Rat) / d⌋ = n / d := Rat.floor_intCast_div_natCast n d

/-- `rhaDiv n d` is `rha` of the quotient. -/
theorem rhaDiv_eq_rha (n : Int) {d : Nat} (hd : 0 < d) : rhaDiv n d = rha ((n : Rat) / d) := by
  have hd' : (0 : Rat) < d := by exact_mod_cast hd
  have half : ∀ m : Int, ((m : Rat) / d + 1 / 2) = ((2 * m + d : Int) : Rat) / ((2 * d : Nat) : Rat) := by
    intro m
    push_cast
    field_simp
  have sgn : (0 ≤ (n : Rat) / d) ↔ 0 ≤ n := by
    rw [div_nonneg_iff]
    constructor
    · rintro (⟨h, -⟩ | ⟨-, h⟩)
      · exact_mod_cast h
      · exact absurd hd' (not_lt.mpr h)
    · intro h
      exact .inl ⟨by exact_mod_cast h, hd'.le⟩
  have neg : -((n : Rat) / d) = ((-n : Int) : Rat) / d := by push_cast; ring
  unfold rhaDiv rha
  simp only [sgn, neg, half, floor_ratio]
  split
  · rfl
  · congr 2; ring_nf

/-- `tzDiv n d` is `tz` of the quotient. -/
theorem tzDiv_eq_tz (n : Int) {d : Nat} (hd : 0 < d) : tzDiv n d = tz ((n : Rat) / d) := by
  have hd' : (0 : Rat) < d := by exact_mod_cast hd
  have sgn : (0 ≤ (n : Rat) / d) ↔ 0 ≤ n := by
    rw [div_nonneg_iff]
    constructor
    · rintro (⟨h, -⟩ | ⟨-, h⟩)
      · exact_mod_cast h
      · exact absurd hd' (not_lt.mpr h)
    · intro h
      exact .inl ⟨by exact_mod_cast h, hd'.le⟩
  have neg : -((n : Rat) / d) = ((-n : Int) : Rat) / d := by push_cast; ring
  unfold tzDiv tz
  simp only [sgn, neg, floor_ratio]

/-- The clamp stays in `i16`. -/
theorem sat16_range (i : Int) : -32768 ≤ sat16 i ∧ sat16 i ≤ 32767 := by
  unfold sat16
  split
  · omega
  · split <;> omega

/-- The clamp leaves what fits. -/
theorem sat16_of_fits {i : Int} (h : -32768 ≤ i) (h' : i ≤ 32767) : sat16 i = i := by
  unfold sat16
  split
  · omega
  · split <;> omega

end Sys2Proof.Machine
end

