-- ==== Sys2Proof/Laws/Crc.lean ====
section
/-! SUPPORT. The bit step and the byte fold under XOR, and the running CRC of a message. -/

namespace Sys2Proof.Machine

/-- The bit step is linear over GF(2). -/
theorem crcBit_xor (c c' : Byte) (m m' : Bool) : crcBit (c ^^^ c') (m ^^ m') = crcBit c m ^^^ crcBit c' m' := by
  have hshift : (c ^^^ c') <<< 1 = (c <<< 1) ^^^ (c' <<< 1) := BitVec.shiftLeft_xor_distrib c c' 1
  simp only [crcBit, BitVec.getLsbD_xor, hshift]
  generalize c <<< 1 = x
  generalize c' <<< 1 = y
  have k0 : ∀ k : Byte, x ^^^ k ^^^ (y ^^^ k) = x ^^^ y := fun k => by
    rw [BitVec.xor_assoc, ← BitVec.xor_assoc k y k, BitVec.xor_comm k y, BitVec.xor_assoc y k k, BitVec.xor_self,
      BitVec.xor_zero]
  have k1 : ∀ k : Byte, x ^^^ k ^^^ y = x ^^^ y ^^^ k := fun k => by
    rw [BitVec.xor_assoc, BitVec.xor_comm k y, ← BitVec.xor_assoc]
  cases c.getLsbD 7 <;> cases c'.getLsbD 7 <;> cases m <;> cases m' <;>
    simp [k0, k1, BitVec.xor_assoc]

/-- The fold as its eight bit steps. -/
theorem crc8_steps (p b : Byte) :
    crc8 p b = crcBit (crcBit (crcBit (crcBit (crcBit (crcBit (crcBit (crcBit p (b.getLsbD 7)) (b.getLsbD 6)) (b.getLsbD 5))
      (b.getLsbD 4)) (b.getLsbD 3)) (b.getLsbD 2)) (b.getLsbD 1)) (b.getLsbD 0) := rfl

@[simp] theorem crc8Msg_nil : crc8Msg [] = 0x00#8 := rfl

/-- One more byte is one more fold. -/
theorem crc8Msg_append_byte (bs : List Byte) (b : Byte) : crc8Msg (bs ++ [b]) = crc8 (crc8Msg bs) b := by
  simp [crc8Msg]

end Sys2Proof.Machine
end

