-- ==== Sys2Proof/Laws/Encoding.lean ====
section
/-! SUPPORT. The fields of a word built by the encoder, and of its argument. -/

namespace Sys2Proof

/-- No term of `Instr` is ill formed: the operand types have the formats' widths. -/
theorem Instr.wellFormed (i : Instr) : i.WellFormed := by
  cases i <;> simp only [Instr.WellFormed] <;> exact BitVec.isLt _

/-- The bits of a command word put together from `op` and `arg`. -/
theorem getLsbD_command (op : Byte) (arg : W32) (k : Nat) :
    (op ++ arg : Cmd).getLsbD k = if k < 32 then arg.getLsbD k else op.getLsbD (k - 32) := BitVec.getLsbD_append

/-- The bits of a format B argument. -/
theorem getLsbD_argB (b : Byte) (k : Nat) : (0#24 ++ b : W32).getLsbD k = if k < 8 then b.getLsbD k else false := by
  have h := BitVec.getLsbD_append (x := 0#24) (y := b) (i := k)
  simpa using h

/-- The bits of a format H argument. -/
theorem getLsbD_argH (r : Half) (k : Nat) : (0#16 ++ r : W32).getLsbD k = if k < 16 then r.getLsbD k else false := by
  have h := BitVec.getLsbD_append (x := 0#16) (y := r) (i := k)
  simpa using h

@[simp] theorem opOf_append (op : Byte) (arg : W32) : opOf (op ++ arg : Cmd) = op := by
  refine BitVec.eq_of_getLsbD_eq fun k hk => ?_
  simp [opOf, getLsbD_command, hk]

@[simp] theorem argOf_append (op : Byte) (arg : W32) : argOf (op ++ arg : Cmd) = arg := by
  refine BitVec.eq_of_getLsbD_eq fun k hk => ?_
  simp [argOf, getLsbD_command, hk]

/-- A word is its op and its argument. -/
theorem opOf_argOf (cmd : Cmd) : (opOf cmd ++ argOf cmd : Cmd) = cmd := by
  refine BitVec.eq_of_getLsbD_eq fun k hk => ?_
  rw [getLsbD_command]
  split
  · next h => simp [argOf, h]
  · next h => simp [opOf, show k - 32 < 8 by omega, show 32 + (k - 32) = k by omega]

@[simp] theorem imm8_append (b : Byte) : (0#24 ++ b : W32).extractLsb' 0 8 = b := by
  refine BitVec.eq_of_getLsbD_eq fun k hk => ?_
  simp [getLsbD_argB, hk]

@[simp] theorem high24_append (b : Byte) : (0#24 ++ b : W32).extractLsb' 8 24 = 0#24 := by
  refine BitVec.eq_of_getLsbD_eq fun k hk => ?_
  simp [getLsbD_argB]

@[simp] theorem raw16_append (r : Half) : (0#16 ++ r : W32).extractLsb' 0 16 = r := by
  refine BitVec.eq_of_getLsbD_eq fun k hk => ?_
  simp [getLsbD_argH, hk]

@[simp] theorem high16_append (r : Half) : (0#16 ++ r : W32).extractLsb' 16 16 = 0#16 := by
  refine BitVec.eq_of_getLsbD_eq fun k hk => ?_
  simp [getLsbD_argH]

/-- An argument with zero high bits is a format B argument. -/
theorem argB_of_high24 {arg : W32} (h : arg.extractLsb' 8 24 = 0#24) : (0#24 ++ arg.extractLsb' 0 8 : W32) = arg := by
  refine BitVec.eq_of_getLsbD_eq fun k hk => ?_
  rw [getLsbD_argB]
  split
  · next h8 => simp [h8]
  · next h8 =>
    have hb := congrArg (BitVec.getLsbD · (k - 8)) h
    simpa [show k - 8 < 24 by omega, show 8 + (k - 8) = k by omega] using hb.symm

/-- An argument with zero high bits is a format H argument. -/
theorem argH_of_high16 {arg : W32} (h : arg.extractLsb' 16 16 = 0#16) : (0#16 ++ arg.extractLsb' 0 16 : W32) = arg := by
  refine BitVec.eq_of_getLsbD_eq fun k hk => ?_
  rw [getLsbD_argH]
  split
  · next h16 => simp [h16]
  · next h16 =>
    have hb := congrArg (BitVec.getLsbD · (k - 16)) h
    simpa [show k - 16 < 16 by omega, show 16 + (k - 16) = k by omega] using hb.symm

end Sys2Proof
end

