-- ==== Sys2Proof/Laws/PerInstr.lean ====
section
/-! SUPPORT. Statements about every command as syntax, one lemma for each constructor: the encoder's word is one of the command's
row of the opcode table (30_encoding R46). -/

namespace Sys2Proof.Laws.RowMatch

/-- The command's word has the row's fixed bits. -/
def Statement (i : Instr) : Prop := encode i &&& i.row.mask = i.row.bits

theorem crcInit : Statement .crcInit := by
  unfold Statement; decide

theorem crcFold (imm8 : Byte) : Statement (.crcFold imm8) := by
  unfold Statement; revert imm8; decide

theorem crcLoad (imm8 : Byte) : Statement (.crcLoad imm8) := by
  unfold Statement; revert imm8; decide

/-- Masking a word masks its op and its argument. -/
theorem command_and (op op' : Byte) (arg arg' : W32) :
    (op ++ arg : Cmd) &&& (op' ++ arg' : Cmd) = ((op &&& op') ++ (arg &&& arg') : Cmd) := by
  refine BitVec.eq_of_getLsbD_eq fun k _ => ?_
  rw [BitVec.getLsbD_and, getLsbD_command, getLsbD_command, getLsbD_command]
  split <;> rw [BitVec.getLsbD_and]

/-- The mask of format F keeps `op` and clears the operand. -/
theorem mask_wordF (op : Byte) (w : W32) : wordF op w &&& 0xFF00000000#40 = (op ++ 0#32 : Cmd) := by
  have h : (0xFF00000000#40 : Cmd) = (BitVec.allOnes 8 ++ 0#32 : Cmd) := by decide
  rw [h, wordF, command_and, BitVec.and_allOnes, BitVec.and_zero]

/-- The mask of format H keeps `op` and the zero bits and clears the operand. -/
theorem mask_wordH (op : Byte) (r : Half) : wordH op r &&& 0xFFFFFF0000#40 = (op ++ 0#32 : Cmd) := by
  have h : (0xFFFFFF0000#40 : Cmd) = (BitVec.allOnes 8 ++ 0xFFFF0000#32 : Cmd) := by decide
  have ha : (0#16 ++ r : W32) &&& 0xFFFF0000#32 = 0#32 := by
    refine BitVec.eq_of_getLsbD_eq fun k hk => ?_
    rw [BitVec.getLsbD_and, getLsbD_argH]
    split
    · next h16 =>
      have : (0xFFFF0000#32).getLsbD k = false := by
        have : ∀ j : Fin 16, (0xFFFF0000#32).getLsbD j = false := by decide
        exact this ⟨k, h16⟩
      simp [this]
    · simp
  rw [h, wordH, command_and, BitVec.and_allOnes, ha]

theorem tcTolinC (val32 : W32) : Statement (.tcTolinC val32) := mask_wordF _ _
theorem tcTolinF (val32 : W32) : Statement (.tcTolinF val32) := mask_wordF _ _
theorem tcTolinK (val32 : W32) : Statement (.tcTolinK val32) := mask_wordF _ _
theorem tcTolinR (val32 : W32) : Statement (.tcTolinR val32) := mask_wordF _ _
theorem tcFromlinC (raw16 : Half) : Statement (.tcFromlinC raw16) := mask_wordH _ _
theorem tcFromlinF (raw16 : Half) : Statement (.tcFromlinF raw16) := mask_wordH _ _
theorem tcFromlinK (raw16 : Half) : Statement (.tcFromlinK raw16) := mask_wordH _ _
theorem tcFromlinR (raw16 : Half) : Statement (.tcFromlinR raw16) := mask_wordH _ _

end Sys2Proof.Laws.RowMatch
end

