-- ==== Sys2Proof/Laws/State.lean ====
section
/-! SUPPORT. Every field after every named update of the state, and every flag after every flag update. -/

namespace Sys2Proof.Machine

@[simp] theorem rangeBit_packFlags (l i r : Bool) : rangeBit (packFlags l i r) = r := by
  cases l <;> cases i <;> cases r <;> rfl
@[simp] theorem invalidBit_packFlags (l i r : Bool) : invalidBit (packFlags l i r) = i := by
  cases l <;> cases i <;> cases r <;> rfl
@[simp] theorem illBit_packFlags (l i r : Bool) : illBit (packFlags l i r) = l := by
  cases l <;> cases i <;> cases r <;> rfl

/-- FLAGS is its three bits. -/
theorem packFlags_bits (f : BitVec 3) : packFlags (illBit f) (invalidBit f) (rangeBit f) = f := by
  revert f; decide

@[simp] theorem rangeBit_tcFlags (f : BitVec 3) (r i : Bool) : rangeBit (tcFlags f r i) = r := by simp [tcFlags]
@[simp] theorem invalidBit_tcFlags (f : BitVec 3) (r i : Bool) : invalidBit (tcFlags f r i) = i := by simp [tcFlags]
@[simp] theorem illBit_tcFlags (f : BitVec 3) (r i : Bool) : illBit (tcFlags f r i) = illBit f := by simp [tcFlags]
@[simp] theorem rangeBit_illFlags (f : BitVec 3) : rangeBit (illFlags f) = rangeBit f := by simp [illFlags]
@[simp] theorem invalidBit_illFlags (f : BitVec 3) : invalidBit (illFlags f) = invalidBit f := by simp [illFlags]
@[simp] theorem illBit_illFlags (f : BitVec 3) : illBit (illFlags f) = true := by simp [illFlags]

@[simp] theorem State.setCrc_crc (s : State) (c : Byte) : (s.setCrc c).crc = c := rfl
@[simp] theorem State.setCrc_res (s : State) (c : Byte) : (s.setCrc c).res = s.res := rfl
@[simp] theorem State.setCrc_flags (s : State) (c : Byte) : (s.setCrc c).flags = s.flags := rfl
@[simp] theorem State.setCrc_pending (s : State) (c : Byte) : (s.setCrc c).pending = s.pending := rfl

@[simp] theorem State.setTc_crc (s : State) (v : W32) (r i : Bool) : (s.setTc v r i).crc = s.crc := rfl
@[simp] theorem State.setTc_res (s : State) (v : W32) (r i : Bool) : (s.setTc v r i).res = v := rfl
@[simp] theorem State.setTc_flags (s : State) (v : W32) (r i : Bool) : (s.setTc v r i).flags = tcFlags s.flags r i := rfl
@[simp] theorem State.setTc_pending (s : State) (v : W32) (r i : Bool) : (s.setTc v r i).pending = s.pending := rfl

@[simp] theorem State.raiseIll_crc (s : State) : s.raiseIll.crc = s.crc := rfl
@[simp] theorem State.raiseIll_res (s : State) : s.raiseIll.res = s.res := rfl
@[simp] theorem State.raiseIll_flags (s : State) : s.raiseIll.flags = illFlags s.flags := rfl
@[simp] theorem State.raiseIll_pending (s : State) : s.raiseIll.pending = s.pending := rfl

@[simp] theorem State.applyReset_crc (s : State) : s.applyReset.crc = State.reset.crc := rfl
@[simp] theorem State.applyReset_res (s : State) : s.applyReset.res = State.reset.res := rfl
@[simp] theorem State.applyReset_flags (s : State) : s.applyReset.flags = State.reset.flags := rfl
@[simp] theorem State.applyReset_pending (s : State) : s.applyReset.pending = s.pending := rfl

@[simp] theorem State.present_crc (s : State) (w : Cmd) : (s.present w).crc = s.crc := rfl
@[simp] theorem State.present_res (s : State) (w : Cmd) : (s.present w).res = s.res := rfl
@[simp] theorem State.present_flags (s : State) (w : Cmd) : (s.present w).flags = s.flags := rfl
@[simp] theorem State.present_pending (s : State) (w : Cmd) : (s.present w).pending = .command w :: s.pending := rfl

end Sys2Proof.Machine
end

