-- ==== Sys2Proof/Laws/Step.lean ====
section
/-! SUPPORT. What the shared operations and one step can do, said once: every later proof cites these. -/

namespace Sys2Proof.Machine

/-- What a command does, as one update of the state: the three CRC commands write CRC, the eight TC commands what `tolin` or
`fromlin` gives. -/
def commandEffect (i : Instr) (s : State) : State :=
  match i with
  | .crcInit => s.setCrc Config.crcSeed
  | .crcFold b => s.setCrc (crc8 s.crc b)
  | .crcLoad b => s.setCrc b
  | .tcTolinC w => s.setTc (tolin w .celsius).res (tolin w .celsius).range (tolin w .celsius).invalid
  | .tcTolinF w => s.setTc (tolin w .fahrenheit).res (tolin w .fahrenheit).range (tolin w .fahrenheit).invalid
  | .tcTolinK w => s.setTc (tolin w .kelvin).res (tolin w .kelvin).range (tolin w .kelvin).invalid
  | .tcTolinR w => s.setTc (tolin w .raw).res (tolin w .raw).range (tolin w .raw).invalid
  | .tcFromlinC r => s.setTc (fromlin r .celsius).res false false
  | .tcFromlinF r => s.setTc (fromlin r .fahrenheit).res false false
  | .tcFromlinK r => s.setTc (fromlin r .kelvin).res false false
  | .tcFromlinR r => s.setTc (fromlin r .raw).res false false

/-- Every command answers a next state, and it is `commandEffect`. -/
theorem exec_eq (i : Instr) (s : State) : exec i s = .next (commandEffect i s) := by
  cases i <;> rfl

/-- The TOLIN command of a unit, without a case for each unit. -/
theorem exec_tolin (u : TUnit) (w : W32) (s : State) :
    exec (.tolin u w) s = .next (s.setTc (tolin w u).res (tolin w u).range (tolin w u).invalid) := by
  cases u <;> rfl

/-- The FROMLIN command of a unit, without a case for each unit. -/
theorem exec_fromlin (u : TUnit) (r : Half) (s : State) :
    exec (.fromlin u r) s = .next (s.setTc (fromlin r u).res false false) := by
  cases u <;> rfl

/-- A TOLIN result never has both flags. -/
theorem tolin_flags (w : W32) (u : TUnit) : ¬((tolin w u).range = true ∧ (tolin w u).invalid = true) := by
  unfold tolin
  split
  · simp
  · split <;> simp

/-- No command touches ILL or the host's events. -/
theorem commandEffect_ill_pending (i : Instr) (s : State) :
    illBit (commandEffect i s).flags = illBit s.flags ∧ (commandEffect i s).pending = s.pending := by
  cases i <;> simp [commandEffect]

/-- Everything a step can do: nothing pending, a reset, a command, or an ILLEGAL word. -/
theorem step_cases {s t : State} (h : step s = .next t) :
    (s.pending = [] ∧ t = s) ∨
    (∃ rest, s.pending = .reset :: rest ∧ t = State.applyReset { s with pending := rest }) ∨
    (∃ w rest i, s.pending = .command w :: rest ∧ decode w = .legal i ∧
      t = commandEffect i { s with pending := rest }) ∨
    (∃ w rest why, s.pending = .command w :: rest ∧ decode w = .illegal why ∧
      t = State.raiseIll { s with pending := rest }) := by
  unfold step at h
  split at h
  · rename_i hp
    exact .inl ⟨hp, by simpa [State.idle] using h.symm⟩
  · rename_i rest hp
    exact .inr (.inl ⟨rest, hp, by simpa using h.symm⟩)
  · rename_i w rest hp
    split at h
    · rename_i i hd
      exact .inr (.inr (.inl ⟨w, rest, i, hp, hd, by simpa [exec_eq] using h.symm⟩))
    · rename_i why hd
      exact .inr (.inr (.inr ⟨w, rest, why, hp, hd, by simpa using h.symm⟩))

end Sys2Proof.Machine
end

