-- ==== Sys2Proof/Laws/Witness.lean ====
section
/-! SUPPORT. Facts for the tests about rational-valued hypotheses: the value of sample words, and one `f32rne`. -/

namespace Sys2Proof.Machine

/-- The value of a normal word, its three fields given. -/
theorem f32val_normal {w : W32} {neg : Bool} {e f : Nat} (hs : f32Sign w = neg) (he : f32Exp w = e + 1) (hf : f32Frac w = f) :
    f32val w = (if neg then -1 else 1) * ((2 ^ 23 + f) * (2 : Rat) ^ ((e : Int) - 149)) := by
  unfold f32val
  rw [hs, he, hf, if_neg (Nat.succ_ne_zero e)]
  push_cast
  congr 3
  ring

/-- +0.0 has value 0. -/
theorem f32val_zero : f32val 0x00000000#32 = 0 := by
  have he : f32Exp 0x00000000#32 = 0 := by decide
  have hf : f32Frac 0x00000000#32 = 0 := by decide
  simp [f32val, he, hf]

/-- +0.0 is `f32rne(0)`. -/
theorem isF32Rne_zero : IsF32Rne 0 0x00000000#32 where
  finite := by decide
  nearest w' _ := by rw [f32val_zero, sub_self, abs_zero]; exact abs_nonneg _
  tieEven _ _ _ _ := by decide
  zero _ := rfl
  sign h := absurd rfl h

end Sys2Proof.Machine
end

