-- ==== Sys2Proof/Tests/Slice0.lean ====
section
/-! SUPPORT. Small tests: expected values from 95_test_vectors and from the rules' own examples; a witness for every hypothesis of the
obligations. -/

open Sys2Proof Sys2Proof.Machine Sys2Proof.Claims

namespace Sys2Proof.Tests

/-- A state with nothing pending. -/
def st (crc : Byte) (res : W32) (flags : BitVec 3) : State := ⟨crc, res, flags, []⟩

/-- The state after the host presents one word. -/
def after (s : State) (w : Cmd) : Option State :=
  match step (s.present w) with
  | .next t => some t
  | .fault _ => none
  | .refused _ => none

/-! Well-formedness: an ill-formed written line for each check. `Instr.WellFormed` cannot fail (its docstring). -/

theorem test_wf_fold : AsmLine.wf (.crcFold 256) = false := by decide
theorem test_wf_load : AsmLine.wf (.crcLoad 256) = false := by decide
theorem test_wf_tolin_word : AsmLine.wf (.tcTolin .celsius (.word (2 ^ 32))) = false := by decide
theorem test_wf_tolin_decimal : AsmLine.wf (.tcTolin .celsius (.decimal (2 ^ 127) 0)) = false := by decide
theorem test_wf_fromlin_word : AsmLine.wf (.tcFromlin .raw (.word 65536)) = false := by decide
theorem test_wf_fromlin_low : AsmLine.wf (.tcFromlin .raw (.decimal (-32769))) = false := by decide
theorem test_wf_fromlin_high : AsmLine.wf (.tcFromlin .raw (.decimal 32768)) = false := by decide
theorem test_wf_pec_sa : AsmLine.wf (.pecRead 0x80 0 0 0) = false := by decide
theorem test_wf_pec_reg : AsmLine.wf (.pecRead 0x5A 256 0 0) = false := by decide
theorem test_wf_pec_lo : AsmLine.wf (.pecWrite 0x5A 0 256 0) = false := by decide
theorem test_wf_pec_hi : AsmLine.wf (.pecWrite 0x5A 0 0 256) = false := by decide
theorem test_wf_pec_good : AsmLine.wf (.pecRead 0x5A 0x07 0xAD 0x27) = true := by decide

/-! Decoding: a word of every row written out bit by bit from 30_encoding R41, R46, and the illegal words of 95_test_vectors 4. -/

theorem test_decode_init : decode 0b0001000000000000000000000000000000000000#40 = .legal .crcInit := by decide
theorem test_decode_fold : decode 0b0001000100000000000000000000000010110100#40 = .legal (.crcFold 0xB4#8) := by decide
theorem test_decode_load : decode 0b0001001000000000000000000000000010100101#40 = .legal (.crcLoad 0xA5#8) := by decide
theorem test_decode_tolinC :
    decode 0b0010000011000010100011000000010100011111#40 = .legal (.tcTolinC 0xC28C051F#32) := by decide
theorem test_decode_tolinF :
    decode 0b0010000101000010110001010011001100110011#40 = .legal (.tcTolinF 0x42C53333#32) := by decide
theorem test_decode_tolinK :
    decode 0b0010001001000011100101100000000000000000#40 = .legal (.tcTolinK 0x43960000#32) := by decide
theorem test_decode_tolinR :
    decode 0b0010001111111111111111111111111111111111#40 = .legal (.tcTolinR 0xFFFFFFFF#32) := by decide
theorem test_decode_fromlinC :
    decode 0b0010010000000000000000001000000000000000#40 = .legal (.tcFromlinC 0x8000#16) := by decide
theorem test_decode_fromlinF :
    decode 0b0010010100000000000000000010011110101101#40 = .legal (.tcFromlinF 0x27AD#16) := by decide
theorem test_decode_fromlinK :
    decode 0b0010011000000000000000000011101010011000#40 = .legal (.tcFromlinK 0x3A98#16) := by decide
theorem test_decode_fromlinR :
    decode 0b0010011100000000000000001111111111111111#40 = .legal (.tcFromlinR 0xFFFF#16) := by decide
theorem test_decode_illegal_ops :
    [0x0000000000#40, 0xFFFFFFFFFF#40, 0x0100000000#40, 0x1300000000#40, 0x1F00000000#40, 0x2800000000#40, 0x2F00000000#40,
      0x3000000000#40, 0xA500000011#40].all (fun w => decode w == .illegal .unknownOp) = true := by decide
theorem test_decode_illegal_operands :
    [0x1000000001#40, 0x1080000000#40, 0x1100000100#40, 0x11FFFFFF00#40, 0x1200010000#40, 0x2400010000#40,
      0x27FFFF0000#40].all (fun w => decode w == .illegal .operandBitSet) = true := by decide
theorem test_tableWord : decodeTableWord 40 0x11000000B4 = some (.crcFold 0xB4#8) := by decide
theorem test_withFetchWord :
    step (State.reset.withFetchWord 40 0x12000000A5) = .next (st 0xA5#8 0#32 0#3) := rfl

/-! One step of every command (95_test_vectors 2.4, 3.1, 3.2, 3.3, and the corner cases of 41_tempconv R88 to R95). -/

theorem test_init_ill_stays : after (st 0x3C#8 0x27AD#32 0b100#3) 0x1000000000#40 = some (st 0x00#8 0x27AD#32 0b100#3) := by
  decide
theorem test_fold : after (st 0x3C#8 0xC28C051F#32 0b001#3) 0x1100000010#40 = some (st 0xC4#8 0xC28C051F#32 0b001#3) := by
  decide
theorem test_load : after (st 0x77#8 0#32 0#3) 0x12000000A5#40 = some (st 0xA5#8 0#32 0#3) := by decide
theorem test_tolinC_tie : after (st 0x11#8 0#32 0b011#3) 0x2080000000#40 = some (st 0x11#8 0x355A#32 0#3) := by decide
theorem test_tolinC_below_tie : after (st 0x11#8 0#32 0#3) 0x2080000001#40 = some (st 0x11#8 0x3559#32 0#3) := by decide
theorem test_tolinF : after (st 0x11#8 0#32 0#3) 0x2142C53333#40 = some (st 0x11#8 0x3C93#32 0#3) := by decide
theorem test_tolinF_nan : after (st 0x11#8 7#32 0b101#3) 0x217FC00000#40 = some (st 0x11#8 0#32 0b110#3) := by decide
theorem test_tolinK_range : after (st 0x11#8 0#32 0#3) 0x224423D70A#40 = some (st 0x11#8 0x7FFF#32 0b001#3) := by decide
theorem test_tolinK_infinity : after (st 0x11#8 0#32 0#3) 0x22FF800000#40 = some (st 0x11#8 0xFFFF8000#32 0b001#3) := by
  decide
theorem test_tolinR_truncates : after (st 0x11#8 0#32 0#3) 0x23C61EB79A#40 = some (st 0x11#8 0xFFFFD853#32 0#3) := by decide
theorem test_tolinR_low_edge : after (st 0x11#8 0#32 0#3) 0x23C70000E6#40 = some (st 0x11#8 0xFFFF8000#32 0#3) := by decide
theorem test_fromlinC : after (st 0x11#8 0x7FFF#32 0b101#3) 0x24000027AD#40 = some (st 0x11#8 0xC28C051F#32 0b100#3) := by
  decide
theorem test_fromlinC_low : after (st 0x5A#8 0#32 0#3) 0x2400008000#40 = some (st 0x5A#8 0xC46820A4#32 0#3) := by decide
theorem test_fromlinF : after (st 0x11#8 0#32 0b010#3) 0x25000031E0#40 = some (st 0x11#8 0xBCB43958#32 0#3) := by decide
theorem test_fromlinK_zero : after (st 0x11#8 9#32 0b001#3) 0x2600000000#40 = some (st 0x11#8 0#32 0#3) := by decide
theorem test_fromlinK_minus_one : after (st 0x11#8 0#32 0#3) 0x260000FFFF#40 = some (st 0x11#8 0xBCA3D70A#32 0#3) := by
  decide
theorem test_fromlinR_low : after (st 0x11#8 0#32 0#3) 0x2700008000#40 = some (st 0x11#8 0xC7000000#32 0#3) := by decide
theorem test_illegal : after (st 0x5A#8 0x12345678#32 0b001#3) 0x1100000100#40 = some (st 0x5A#8 0x12345678#32 0b101#3) := by
  decide

/-! The fold and the assembler (95_test_vectors 2.2, 1.1; 30_encoding R49, R51). -/

theorem test_crcBit : crcBit 0x7F#8 true = 0xF9#8 := by decide
theorem test_crc8 : crc8 0xA5#8 0x5A#8 = 0xF3#8 := by decide
theorem test_f32rne_half_even : f32rne 16777217 1 = 0x4B800000#32 := by decide
theorem test_assemble_decimal : assembleText "TC.TOLIN.C -70.01 ; note" = some [0x20C28C051F#40] := by decide
theorem test_assemble_pec :
    assembleText "PEC.WRITE 0x5A, 0x24, 0x33, 0x33" =
      some [0x1000000000#40, 0x11000000B4#40, 0x1100000024#40, 0x1100000033#40, 0x1100000033#40] := by decide
theorem test_assemble_blank : assembleText " ; only a comment" = some [] := by decide
theorem test_assemble_refuses : assembleText "PEC.READ 0x80, 0, 0, 0" = none := by decide
theorem test_listing : listing 0x11000000B4#40 = "11000000B4".toList := by decide

/-! Witnesses: concrete values that meet the hypotheses of each obligation that has some. -/

/-- A state with one reset pending. -/
def resetting : State := ⟨0x92#8, 5#32, 0b110#3, [.reset]⟩
/-- A state with one legal word pending. -/
def folding : State := ⟨0x05#8, 5#32, 0b100#3, [.command 0x1100000007#40]⟩
/-- A state with one illegal word of each kind pending. -/
def failing : State := ⟨0x05#8, 5#32, 0b001#3, [.command 0x1100000100#40, .command 0xA500000011#40]⟩

theorem witness_ResetEventWritesResetValues : resetting.pending = .reset :: [] := by decide
theorem witness_NothingPendingChangesNothing : State.reset.pending = [] := by decide
theorem witness_StepRunsTheDecodedCommand :
    folding.pending = .command 0x1100000007#40 :: [] ∧ decode 0x1100000007#40 = .legal (.crcFold 0x07#8) := by decide
theorem witness_IllegalWordSetsIllOnly :
    failing.pending = .command 0x1100000100#40 :: [.command 0xA500000011#40] ∧
      decode 0x1100000100#40 = .illegal .operandBitSet := by decide
theorem witness_DecodeOfEncodeGivesTheCommand : (Instr.tcFromlinR 0xFFFF#16).WellFormed := by decide
theorem witness_LegalWordIsTheEncodingOfItsCommand : decode 0x12000000FF#40 = .legal (.crcLoad 0xFF#8) := by decide
theorem witness_DecoderAgreesWithTheOpcodeTable :
    (Instr.crcFold 0#8).row ∈ opcodeTable ∧ (Instr.crcFold 0#8).row.selects 0x11000000FF#40 = true := by decide
theorem witness_GroupAndFunction_otherGroup : grpOf 0x3000000000#40 ≠ 1#4 ∧ grpOf 0x3000000000#40 ≠ 2#4 := by decide
theorem witness_GroupAndFunction_crcFn : grpOf 0x1300000000#40 = 1#4 ∧ 3 ≤ (fnOf 0x1300000000#40).toNat := by decide
theorem witness_GroupAndFunction_tcFn : grpOf 0x2800000000#40 = 2#4 ∧ (fnOf 0x2800000000#40).getLsbD 3 = true := by decide
theorem witness_GroupAndFunction_crc :
    decode 0x1200000000#40 = .legal (.crcLoad 0#8) ∧ grpOf 0x1200000000#40 = 1#4 := by decide
theorem witness_GroupAndFunction_tc :
    decode 0x270000FFFF#40 = .legal (.tcFromlinR 0xFFFF#16) ∧ grpOf 0x270000FFFF#40 = 2#4 := by decide
theorem witness_FoldMeetsTheEightEquations_row : (3, [7, 3, 2, 1]) ∈ crc8Taps := by decide
theorem witness_FoldMeetsTheEightEquations_xor : (0xA5#8 ^^^ 0x5A#8) = (0x00#8 ^^^ 0xFF#8 : Byte) := by decide
theorem witness_CrcIsLinear : [0xB4#8, 0x07#8].length = [0x01#8, 0x80#8].length := by decide
theorem witness_OneByteCorruptionChangesTheCrc : (0x27#8 : Byte) ≠ 0x26#8 := by decide
theorem witness_NearestWordIsUnique : IsF32Rne 0 0x00000000#32 ∧ IsF32Rne 0 0x00000000#32 :=
  ⟨isF32Rne_zero, isF32Rne_zero⟩
theorem witness_IntegerRoundingIsNearestTiesToEven : 0 < 1000 ∧ |((-928510 : Int) : Rat) / (1000 : Nat)| < 2 ^ 127 := by
  refine ⟨by decide, ?_⟩
  rw [abs_lt]
  constructor <;> norm_num
theorem witness_IntegerConversionIsTheExactFormula : isFinite 0x80000001#32 = true := by decide
theorem witness_ThousandthsFormsOfFromlin_low : (-32768 : Int) ≤ -32768 ∧ (-32768 : Int) ≤ 32767 ∧ (-32768 : Int) ≠ 0 := by
  decide
theorem witness_ThousandthsFormsOfFromlin_high : (-32768 : Int) ≤ 32767 ∧ (32767 : Int) ≤ 32767 ∧ (32767 : Int) ≠ 0 := by
  decide
theorem witness_RangeThresholds : isFinite 0x47000000#32 = true := by decide
theorem witness_TcCommandsWriteRangeAndInvalid : isNan 0xFF800001#32 = true := by decide
theorem witness_TolinResultIsSignExtended : 15 < 16 := by decide
theorem witness_TcResultDependsOnTheWordAlone : isTc (.tcTolinF 0#32) = true := by decide
theorem witness_CelsiusRoundTrip_low :
    (-100 : Int) ≤ -100 ∧ (-100 : Int) ≤ 300 ∧ isFinite 0xC2480000#32 = true ∧
      f32val 0xC2480000#32 = ((-100 : Int) : Rat) / 2 := by
  refine ⟨by decide, by decide, by decide, ?_⟩
  rw [f32val_normal (neg := true) (e := 131) (f := 0x480000) (by decide) (by decide) (by decide)]
  norm_num
theorem witness_CelsiusRoundTrip_high :
    (-100 : Int) ≤ 300 ∧ (300 : Int) ≤ 300 ∧ isFinite 0x43160000#32 = true ∧
      f32val 0x43160000#32 = ((300 : Int) : Rat) / 2 := by
  refine ⟨by decide, by decide, by decide, ?_⟩
  rw [f32val_normal (neg := false) (e := 133) (f := 0x160000) (by decide) (by decide) (by decide)]
  norm_num
theorem witness_ConversionsAreMonotone_words :
    isFinite 0xC2480000#32 = true ∧ isFinite 0x43160000#32 = true ∧ f32val 0xC2480000#32 ≤ f32val 0x43160000#32 := by
  refine ⟨by decide, by decide, ?_⟩
  rw [witness_CelsiusRoundTrip_low.2.2.2, witness_CelsiusRoundTrip_high.2.2.2]
  norm_num
theorem witness_ConversionsAreMonotone_counts : (0xFFFF#16 : Half).toInt < (0x0000#16 : Half).toInt := by decide
theorem witness_UnitsAreIndependent_crc :
    isTc (.crcFold 1#8) = false ∧ (st 1#8 2#32 0#3).crc = (st 1#8 3#32 0b101#3).crc := by decide
theorem witness_UnitsAreIndependent_tc : isTc (.tcFromlinK 1#16) = true := by decide
theorem witness_UnitsAreIndependent_illegal :
    failing.pending = .command 0x1100000100#40 :: [.command 0xA500000011#40] ∧
      decode 0x1100000100#40 = .illegal .operandBitSet := by decide
theorem witness_StepKeepsFlagsLegal :
    FlagsLegal failing ∧ step failing = .next ⟨0x05#8, 5#32, 0b101#3, [.command 0xA500000011#40]⟩ := ⟨by decide, rfl⟩
theorem witness_IllIsStickyAndSteersNothing_sticky :
    step folding = .next ⟨0x0E#8, 5#32, 0b100#3, []⟩ ∧ folding.ill = true := ⟨rfl, by decide⟩
theorem witness_IllIsStickyAndSteersNothing_reset :
    step resetting = .next State.reset ∧ resetting.ill = true ∧ State.reset.ill = false := ⟨rfl, by decide, by decide⟩
theorem witness_IllIsStickyAndSteersNothing_pair :
    (st 1#8 2#32 0b101#3).crc = (st 1#8 2#32 0b001#3).crc ∧ (st 1#8 2#32 0b101#3).res = (st 1#8 2#32 0b001#3).res ∧
      (st 1#8 2#32 0b101#3).range = (st 1#8 2#32 0b001#3).range ∧
      (st 1#8 2#32 0b101#3).invalid = (st 1#8 2#32 0b001#3).invalid ∧
      (st 1#8 2#32 0b101#3).pending = (st 1#8 2#32 0b001#3).pending := by decide
theorem witness_FlagsAndResSteerNoLaterCrc : (st 1#8 2#32 0b101#3).crc = (st 1#8 9#32 0b010#3).crc := by decide
theorem witness_AtMostOneConditionPerCommand :
    decode 0xA500000011#40 = .illegal .unknownOp ∧ isNan 0x7FC00000#32 = true ∧ isInf 0xFF800000#32 = true ∧
      isFinite 0x447A0000#32 = true := by decide
theorem witness_AssembledLines_decimal : |((-7001 : Int) : Rat) / 10 ^ 2| < 2 ^ 127 := by
  rw [abs_lt]
  constructor <;> norm_num
theorem witness_AssembledLines_decimal_refused : 2 ^ 127 ≤ |((-2 ^ 127 : Int) : Rat) / 10 ^ 0| := by norm_num
theorem witness_AssembledLines_decode : assemble (.crcFold 255) = some [0x11000000FF#40] := by decide
theorem test_assemble_edges :
    assemble (.tcFromlin .raw (.decimal (-32768))) = some [0x2700008000#40] ∧
      assemble (.tcFromlin .raw (.decimal (-32769))) = none ∧ assemble (.tcFromlin .raw (.decimal 32768)) = none := by decide

end Sys2Proof.Tests
end

/-! ### What one step does for each event, and the two units (00_scope R8, R9) -/

namespace Sys2Proof.Machine

open Sys2Proof.Claims

/-- With nothing pending a step answers the same state (00_scope R6; log 1). -/
theorem step_of_nil {s : State} (hp : s.pending = []) : step s = .next s := by
  simp [step, hp, State.idle]

/-- A pending reset is applied (70_reset R125). -/
theorem step_of_reset {s : State} {rest : List HostEvent} (hp : s.pending = .reset :: rest) :
    step s = .next (State.applyReset { s with pending := rest }) := by
  simp [step, hp]

/-- A pending legal word has its command's effect on the state with that event taken. -/
theorem step_of_legal {s : State} {w : Cmd} {rest : List HostEvent} {i : Instr} (hp : s.pending = .command w :: rest)
    (hd : decode w = .legal i) : step s = .next (commandEffect i { s with pending := rest }) := by
  simp [step, hp, hd, exec_eq]

/-- A pending illegal word of either kind raises ILL (30_encoding R47). -/
theorem step_of_illegal {s : State} {w : Cmd} {rest : List HostEvent} {why : IllegalWord}
    (hp : s.pending = .command w :: rest) (hd : decode w = .illegal why) :
    step s = .next (State.raiseIll { s with pending := rest }) := by
  simp [step, hp, hd]

/-- Every step of every state completes (00_scope R8). -/
theorem exists_step_eq_next (s : State) : ∃ t, step s = .next t := by
  match hp : s.pending with
  | [] => exact ⟨_, step_of_nil hp⟩
  | .reset :: _ => exact ⟨_, step_of_reset hp⟩
  | .command w :: _ =>
    match hd : decode w with
    | .legal _ => exact ⟨_, step_of_legal hp hd⟩
    | .illegal _ => exact ⟨_, step_of_illegal hp hd⟩

/-- A CRC command is one write of CRC, of a value that depends on CRC alone (00_scope R9). -/
theorem commandEffect_of_crc {i : Instr} (hi : isTc i = false) :
    ∃ f : Byte → Byte, ∀ s, commandEffect i s = s.setCrc (f s.crc) := by
  cases i with
  | crcInit => exact ⟨fun _ => Config.crcSeed, fun _ => rfl⟩
  | crcFold b => exact ⟨fun c => crc8 c b, fun _ => rfl⟩
  | crcLoad b => exact ⟨fun _ => b, fun _ => rfl⟩
  | _ => cases hi

/-- A TC command is one write of RES, RANGE and INVALID, of values that depend on no state (00_scope R9). -/
theorem commandEffect_of_tc {i : Instr} (hi : isTc i = true) :
    ∃ res range invalid, ∀ s, commandEffect i s = s.setTc res range invalid := by
  cases i with
  | crcInit | crcFold _ | crcLoad _ => cases hi
  | _ => exact ⟨_, _, _, fun _ => rfl⟩

/-- Settles O6: a step completes by the case of its event, and `step` being a function the next state is unique. -/
theorem everyWordHasExactlyOneNextState : Obligations.EveryWordHasExactlyOneNextState := by
  refine ⟨fun s w => ?_, fun s => ?_⟩
  · obtain ⟨t, ht⟩ := exists_step_eq_next (s.present w)
    exact ⟨t, ht, fun t' ht' => Host.Outcome.next.inj (ht'.symm.trans ht)⟩
  · obtain ⟨t, ht⟩ := exists_step_eq_next s
    simp [ht]

/-- Settles O51: every command is one `setCrc` or one `setTc`, whose frames and arguments say what it reads and writes. -/
theorem unitsAreIndependent : Obligations.UnitsAreIndependent := by
  refine ⟨fun i s hi => ?crcFrame, fun i s s' hi hcrc => ?crcReads, fun i s s' hi => ?tc, fun s w rest why hp hd => ?ill⟩
  case crcFrame =>
    obtain ⟨f, hf⟩ := commandEffect_of_crc hi
    exact ⟨_, exec_eq i s, by simp [hf]⟩
  case crcReads =>
    obtain ⟨f, hf⟩ := commandEffect_of_crc hi
    exact ⟨_, _, exec_eq i s, exec_eq i s', by simp [hf, hcrc]⟩
  case tc =>
    obtain ⟨res, range, invalid, ht⟩ := commandEffect_of_tc hi
    exact ⟨_, _, exec_eq i s, exec_eq i s', by simp [ht, State.range, State.invalid, State.ill]⟩
  case ill =>
    exact ⟨_, step_of_illegal hp hd, by simp [State.range, State.invalid, State.ill]⟩

end Sys2Proof.Machine

/-! ### Binary32 words as sign and field, and the one rounding (30_encoding R45) -/

namespace Sys2Proof.Machine

/-- The exponent and the fraction of a word as one number, `unsigned(w[30:0])`. -/
def f32Field (w : W32) : Nat := w.toNat % 2 ^ 31

/-- The word with a given sign and a given field. -/
def f32Word (neg : Bool) (field : Nat) : W32 := BitVec.ofBool neg ++ BitVec.ofNat 31 field

/-- The magnitude, in units of 2^(-149), of a word with a given field. -/
def fieldUnits (b : Nat) : Nat := if b / 2 ^ 23 = 0 then b % 2 ^ 23 else (2 ^ 23 + b % 2 ^ 23) * 2 ^ (b / 2 ^ 23 - 1)

theorem f32Exp_eq (w : W32) : f32Exp w = f32Field w / 2 ^ 23 := by
  simp only [f32Exp, f32Field, BitVec.extractLsb'_toNat, Nat.shiftRight_eq_div_pow]
  omega

theorem f32Frac_eq (w : W32) : f32Frac w = f32Field w % 2 ^ 23 := by
  simp only [f32Frac, f32Field, BitVec.extractLsb'_toNat, Nat.shiftRight_zero]
  omega

theorem f32MagUnits_eq (w : W32) : f32MagUnits w = fieldUnits (f32Field w) := by
  rw [f32MagUnits, fieldUnits, f32Exp_eq, f32Frac_eq]

theorem f32Field_lt (w : W32) : f32Field w < 2 ^ 31 := Nat.mod_lt _ (by decide)

/-- A word is finite when its field lies below that of the infinities. -/
theorem isFinite_iff (w : W32) : isFinite w = true ↔ f32Field w < 255 * 2 ^ 23 := by
  have := f32Field_lt w
  rw [isFinite, f32Exp_eq, bne_iff_ne]
  omega

/-- The last bit of a word is that of its field. -/
theorem getLsbD_zero_eq_false_iff (w : W32) : w.getLsbD 0 = false ↔ f32Field w % 2 = 0 := by
  rw [f32Field, BitVec.getLsbD, Nat.testBit_zero, decide_eq_false_iff_not]
  omega

theorem f32Word_toNat (neg : Bool) {b : Nat} (hb : b < 2 ^ 31) : (f32Word neg b).toNat = neg.toNat * 2 ^ 31 + b := by
  rw [f32Word, BitVec.toNat_append, BitVec.toNat_ofBool, BitVec.toNat_ofNat, Nat.mod_eq_of_lt hb,
    ← Nat.shiftLeft_add_eq_or_of_lt hb, Nat.shiftLeft_eq]

theorem f32Sign_eq (w : W32) : f32Sign w = decide (2 ^ 31 ≤ w.toNat) := by
  rw [f32Sign, ← BitVec.msb_eq_getLsbD_last, BitVec.msb_eq_decide]

@[simp] theorem f32Sign_f32Word (neg : Bool) {b : Nat} (hb : b < 2 ^ 31) : f32Sign (f32Word neg b) = neg := by
  rw [f32Sign_eq, f32Word_toNat neg hb]
  cases neg
  · simpa using hb
  · simp

@[simp] theorem f32Field_f32Word (neg : Bool) {b : Nat} (hb : b < 2 ^ 31) : f32Field (f32Word neg b) = b := by
  rw [f32Field, f32Word_toNat neg hb]
  omega

/-- A word is given by its sign and its field. -/
theorem eq_of_f32Sign_f32Field {w w' : W32} (hs : f32Sign w = f32Sign w') (hf : f32Field w = f32Field w') : w = w' := by
  rw [f32Sign_eq, f32Sign_eq, decide_eq_decide] at hs
  unfold f32Field at hf
  exact BitVec.eq_of_toNat_eq (by omega)

/-- Above `k` steps of the exponent the words lie `2^k` units apart, up to and including the first word of the next step. -/
theorem fieldUnits_step {k s : Nat} (hs : s ≤ 2 ^ 24) (hk : k = 0 ∨ 2 ^ 23 ≤ s) : fieldUnits (k * 2 ^ 23 + s) = s * 2 ^ k := by
  unfold fieldUnits
  rcases Nat.lt_or_ge s (2 ^ 23) with hlt | hge
  · have hk0 : k = 0 := by omega
    subst hk0
    rw [if_pos (by omega)]
    omega
  · rcases Nat.eq_or_lt_of_le hs with rfl | hlt
    · have he : (k * 2 ^ 23 + 2 ^ 24) / 2 ^ 23 = k + 2 := by omega
      have hf : (k * 2 ^ 23 + 2 ^ 24) % 2 ^ 23 = 0 := by omega
      rw [he, hf, if_neg (by omega), Nat.add_sub_cancel (n := k + 1) (m := 1)]
      ring
    · have he : (k * 2 ^ 23 + s) / 2 ^ 23 = k + 1 := by omega
      have hf : 2 ^ 23 + (k * 2 ^ 23 + s) % 2 ^ 23 = s := by omega
      rw [he, hf, if_neg (by omega), Nat.add_sub_cancel]

/-- Every field is a number of exponent steps and a significand. -/
theorem exists_field_eq (b : Nat) : ∃ k s, b = k * 2 ^ 23 + s ∧ s < 2 ^ 24 ∧ (k = 0 ∨ 2 ^ 23 ≤ s) :=
  ⟨b / 2 ^ 23 - 1, b - (b / 2 ^ 23 - 1) * 2 ^ 23, by omega, by omega, by omega⟩

/-- A larger field is a larger magnitude. -/
theorem fieldUnits_strictMono : StrictMono fieldUnits := by
  refine strictMono_nat_of_lt_succ fun b => ?_
  obtain ⟨k, s, rfl, hs, hk⟩ := exists_field_eq b
  rw [Nat.add_assoc, fieldUnits_step hs.le hk, fieldUnits_step hs (by omega)]
  exact Nat.mul_lt_mul_of_pos_right (Nat.lt_succ_self s) (Nat.two_pow_pos k)

@[simp] theorem fieldUnits_zero : fieldUnits 0 = 0 := rfl

/-- A magnitude is a multiple of `2^k`, or it lies below all the words that are `2^k` apart. -/
theorem fieldUnits_multiple_or_lt (k b : Nat) : (∃ t, fieldUnits b = t * 2 ^ k) ∨ (0 < k ∧ fieldUnits b < 2 ^ 23 * 2 ^ k) := by
  obtain ⟨j, s, rfl, hs, hj⟩ := exists_field_eq b
  rw [fieldUnits_step hs.le hj]
  rcases Nat.le_total k j with hkj | hjk
  · obtain ⟨i, rfl⟩ := Nat.exists_eq_add_of_le hkj
    exact .inl ⟨s * 2 ^ i, by ring⟩
  · rcases Nat.eq_or_lt_of_le hjk with rfl | hlt
    · exact .inl ⟨s, rfl⟩
    · obtain ⟨i, rfl⟩ := Nat.exists_eq_add_of_lt hlt
      refine .inr ⟨by omega, ?_⟩
      calc s * 2 ^ j < 2 ^ 24 * 2 ^ j := Nat.mul_lt_mul_of_pos_right hs (Nat.two_pow_pos j)
        _ ≤ 2 ^ 24 * 2 ^ (j + i) := Nat.mul_le_mul_left _ (Nat.pow_le_pow_right (by decide) (by omega))
        _ = 2 ^ 23 * 2 ^ (j + i + 1) := by ring

/-- The value of a word in units of 2^(-149), over the rationals. -/
theorem f32val_eq_units (w : W32) : f32val w = (f32Units w : Rat) / unitsPerOne := by
  have hmag : (if f32Exp w = 0 then f32Frac w * (2 : Rat) ^ (-149 : Int)
      else (2 ^ 23 + f32Frac w) * (2 : Rat) ^ ((f32Exp w : Int) - 150)) = (f32MagUnits w : Rat) / unitsPerOne := by
    unfold f32MagUnits
    split
    · rw [zpow_neg, div_eq_mul_inv]; rfl
    · next he =>
      obtain ⟨e, he⟩ := Nat.exists_eq_add_one_of_ne_zero he
      have hexp : ((e + 1 : Nat) : Int) - 150 = (e : Int) - 149 := by omega
      rw [he, hexp, zpow_sub₀ (by norm_num), zpow_natCast, Nat.add_sub_cancel, ← mul_div_assoc]
      push_cast
      rfl
  rw [f32val, hmag, f32Units]
  split <;> push_cast <;> ring

/-- Rounding to nearest goes down or up by which half of the divisor the remainder is in, and to even in the middle. -/
theorem rneDiv_cases (a b : Nat) :
    (rneDiv a b = a / b ∧ (2 * (a % b) < b ∨ (2 * (a % b) = b ∧ rneDiv a b % 2 = 0))) ∨
      (rneDiv a b = a / b + 1 ∧ (b < 2 * (a % b) ∨ (2 * (a % b) = b ∧ rneDiv a b % 2 = 0))) := by
  unfold rneDiv
  split
  · next hlow => exact .inl ⟨rfl, .inl hlow⟩
  · split
    · next hhigh => exact .inr ⟨rfl, .inl hhigh⟩
    · omega

/-- Rounding to nearest is nearer than every other natural number, or it is as near and even. -/
theorem rneDiv_nearest (a : Nat) {b t : Nat} (hb : 0 < b) (ht : t ≠ rneDiv a b) :
    |(rneDiv a b * b : Int) - a| < |(t * b : Int) - a| ∨
      (|(rneDiv a b * b : Int) - a| = |(t * b : Int) - a| ∧ rneDiv a b % 2 = 0) := by
  have hdiv : (a : Int) = (a / b : Nat) * b + (a % b : Nat) := by exact_mod_cast (Nat.div_add_mod' a b).symm
  have hmod : a % b < b := Nat.mod_lt a hb
  have hcases := rneDiv_cases a b
  generalize a / b = q at *
  generalize a % b = r at *
  have hfloor : |(q * b : Int) - a| = r := by
    rw [abs_of_nonpos] <;> omega
  have hceil : |((q + 1 : Nat) * b : Int) - a| = b - r := by
    push_cast [add_mul]
    rw [abs_of_nonneg] <;> omega
  have hfar : t ≠ q → t ≠ q + 1 → (b : Int) ≤ |(t * b : Int) - a| := fun hq hq' => by
    rw [le_abs]
    rcases (by omega : t + 1 ≤ q ∨ q + 2 ≤ t) with h | h
    · have : ((t + 1 : Nat) : Int) * b ≤ q * b := by exact_mod_cast Nat.mul_le_mul_right b h
      push_cast [add_mul] at this
      omega
    · have : ((q + 2 : Nat) : Int) * b ≤ t * b := by exact_mod_cast Nat.mul_le_mul_right b h
      push_cast [add_mul] at this
      omega
  rcases hcases with ⟨heq, hr⟩ | ⟨heq, hr⟩
  · rw [heq] at ht hr ⊢
    rcases eq_or_ne t (q + 1) with rfl | hq'
    · omega
    · have := hfar ht hq'
      omega
  · rw [heq] at ht hr ⊢
    rcases eq_or_ne t q with rfl | hq
    · omega
    · have := hfar hq ht
      omega

/-- The number of exponent steps of the words next to `a / d`, counted in units of 2^(-149). -/
def rneStep (a d : Nat) : Nat := (a / d).log2 - 23

/-- The field that `f32rne` gives the magnitude `a / d`, counted in units of 2^(-149). -/
def rneField (a d : Nat) : Nat := rneStep a d * 2 ^ 23 + rneDiv a (d * 2 ^ rneStep a d)

theorem f32rne_zero (d : Nat) : f32rne 0 d = 0x00000000#32 := by simp [f32rne]

theorem f32rne_of_ne_zero {n : Int} (hn : n ≠ 0) (d : Nat) :
    f32rne n d = f32Word (decide (n < 0)) (rneField (n.natAbs * unitsPerOne) d) := by
  rw [f32rne, if_neg hn]
  rfl

/-- Rounding moves the quotient up by one at most. -/
theorem div_le_rneDiv (a b : Nat) : a / b ≤ rneDiv a b ∧ rneDiv a b ≤ a / b + 1 := by
  rcases rneDiv_cases a b with ⟨h, -⟩ | ⟨h, -⟩ <;> rw [h] <;> omega

/-- The significand has at most 24 bits, or it is the first of the next exponent step. -/
theorem significand_le (a d : Nat) : rneDiv a (d * 2 ^ rneStep a d) ≤ 2 ^ 24 := by
  have hlog : a / d < 2 ^ (24 + rneStep a d) :=
    (Nat.lt_log2_self (n := a / d)).trans_le (Nat.pow_le_pow_right (by decide) (by unfold rneStep; omega))
  have hdiv : a / (d * 2 ^ rneStep a d) < 2 ^ 24 := by
    rw [← Nat.div_div_eq_div_mul, Nat.div_lt_iff_lt_mul (Nat.two_pow_pos _), ← pow_add]
    exact hlog
  have := (div_le_rneDiv a (d * 2 ^ rneStep a d)).2
  omega

/-- The first magnitude of the exponent step is not above the quotient. -/
theorem step_le_quotient {a d : Nat} (hk : 0 < rneStep a d) : 2 ^ 23 * 2 ^ rneStep a d ≤ a / d := by
  unfold rneStep at hk ⊢
  rw [← pow_add, show 23 + ((a / d).log2 - 23) = (a / d).log2 by omega]
  exact Nat.log2_self_le (by rintro h; simp [h] at hk)

/-- Past the first exponent step the significand has its leading bit. -/
theorem significand_ge (a d : Nat) : rneStep a d = 0 ∨ 2 ^ 23 ≤ rneDiv a (d * 2 ^ rneStep a d) := by
  refine (Nat.eq_zero_or_pos _).imp_right fun hk => ?_
  refine le_trans ?_ (div_le_rneDiv a _).1
  rw [← Nat.div_div_eq_div_mul, Nat.le_div_iff_mul_le (Nat.two_pow_pos _)]
  exact step_le_quotient hk

/-- The magnitude of the rounded field: the significand, `2^k` units each. -/
theorem fieldUnits_rneField (a d : Nat) :
    fieldUnits (rneField a d) = rneDiv a (d * 2 ^ rneStep a d) * 2 ^ rneStep a d :=
  fieldUnits_step (significand_le a d) (significand_ge a d)

/-- A quotient of at most `m + 24` bits takes at most `m` exponent steps. -/
theorem rneStep_le {a d m : Nat} (h : a / d < 2 ^ (m + 24)) : rneStep a d ≤ m := by
  have hlog : (a / d).log2 < m + 24 := by
    rw [Nat.log2_eq_log_two]
    exact Nat.log_lt_of_lt_pow' (Nat.succ_ne_zero _) h
  unfold rneStep
  omega

/-- A quotient of at most `m + 24` bits is rounded to at most the first field past exponent step `m`. -/
theorem rneField_le {a d m : Nat} (h : a / d < 2 ^ (m + 24)) : rneField a d ≤ (m + 2) * 2 ^ 23 := by
  have hk := rneStep_le h
  have hs := significand_le a d
  unfold rneField
  omega

/-- The magnitude of a rounded field is nearer to `a / d` than every other field's, or it is as near and the field is even. -/
theorem rneField_nearest (a : Nat) {d b : Nat} (hd : 0 < d) (hb : fieldUnits b ≠ fieldUnits (rneField a d)) :
    |(fieldUnits (rneField a d) * d : Int) - a| < |(fieldUnits b * d : Int) - a| ∨
      (|(fieldUnits (rneField a d) * d : Int) - a| = |(fieldUnits b * d : Int) - a| ∧ rneField a d % 2 = 0) := by
  have hpos : 0 < d * 2 ^ rneStep a d := Nat.mul_pos hd (Nat.two_pow_pos _)
  have hscale : ∀ t : Nat, ((t * 2 ^ rneStep a d : Nat) : Int) * d = t * ((d * 2 ^ rneStep a d : Nat) : Int) := fun t => by
    push_cast; ring
  have heven : rneField a d % 2 = rneDiv a (d * 2 ^ rneStep a d) % 2 := by unfold rneField; omega
  rw [fieldUnits_rneField] at hb ⊢
  rw [heven, hscale]
  rcases fieldUnits_multiple_or_lt (rneStep a d) b with ⟨t, ht⟩ | ⟨hk, hlt⟩
  · rw [ht] at hb ⊢
    rw [hscale]
    exact rneDiv_nearest a hpos fun h => hb (by rw [h])
  · -- the first word of the exponent step lies strictly between `b`'s magnitude and the quotient
    left
    have hfirst : (fieldUnits b * d : Int) < (2 ^ 23 : Nat) * ((d * 2 ^ rneStep a d : Nat) : Int) := by
      rw [← hscale]; exact_mod_cast Nat.mul_lt_mul_of_pos_right hlt hd
    have hquot : ((2 ^ 23 : Nat) * ((d * 2 ^ rneStep a d : Nat) : Int)) ≤ a := by
      rw [← hscale]; exact_mod_cast (Nat.le_div_iff_mul_le hd).1 (step_le_quotient hk)
    have hle : |(rneDiv a (d * 2 ^ rneStep a d) * ((d * 2 ^ rneStep a d : Nat) : Int)) - a| ≤
        |((2 ^ 23 : Nat) * ((d * 2 ^ rneStep a d : Nat) : Int)) - a| := by
      by_cases h : 2 ^ 23 = rneDiv a (d * 2 ^ rneStep a d)
      · rw [← h]
      · exact (rneDiv_nearest a hpos h).elim le_of_lt fun h => h.1.le
    refine hle.trans_lt ?_
    rw [abs_of_nonpos (sub_nonpos.2 hquot), abs_of_nonpos (by omega)]
    omega

/-- A rounded field is nearer than a word of the other sign, or as near and even: +0.0 lies between. -/
theorem rneField_nearest_of_sign_ne (a : Nat) {d b : Nat} (hd : 0 < d)
    (hb : fieldUnits b ≠ 0 ∨ fieldUnits (rneField a d) ≠ 0) :
    |(fieldUnits (rneField a d) * d : Int) - a| < (fieldUnits b * d : Int) + a ∨
      (|(fieldUnits (rneField a d) * d : Int) - a| = (fieldUnits b * d : Int) + a ∧ rneField a d % 2 = 0) := by
  have hzero : |((fieldUnits 0 : Nat) * d : Int) - a| = a := by simp
  have hnonneg : (0 : Int) ≤ fieldUnits b * d := by positivity
  by_cases hM : fieldUnits (rneField a d) = 0
  · have hpos : 0 < fieldUnits b * d := Nat.mul_pos (Nat.pos_of_ne_zero (hb.resolve_right (not_not.2 hM))) hd
    rw [hM, ← fieldUnits_zero, hzero]
    exact .inl (lt_add_of_pos_left _ (by exact_mod_cast hpos))
  · rcases rneField_nearest a hd (b := 0) (Ne.symm hM) with h | ⟨h, he⟩ <;> rw [hzero] at h
    · exact .inl (by omega)
    · rcases hnonneg.lt_or_eq with h0 | h0
      · exact .inl (by omega)
      · exact .inr ⟨by omega, he⟩

/-- The value of a word in units of 2^(-149), by its sign and its field. -/
theorem f32Units_eq (w : W32) :
    f32Units w = if f32Sign w then -(fieldUnits (f32Field w) : Int) else fieldUnits (f32Field w) := by
  rw [f32Units, f32MagUnits_eq]

/-- The distance of two signed magnitudes: their difference where the signs agree, else their sum. -/
theorem abs_signed_sub (s t : Bool) {x y : Int} (hx : 0 ≤ x) (hy : 0 ≤ y) :
    |(if s then -x else x) - (if t then -y else y)| = if s = t then |x - y| else x + y := by
  cases s <;> cases t <;> simp only [Bool.false_eq_true, if_true, if_false, reduceCtorEq]
  · rw [sub_neg_eq_add, abs_of_nonneg (add_nonneg hx hy)]
  · rw [abs_of_nonpos (by omega)]; ring
  · rw [← abs_neg]; ring_nf

/-- How far a word's value lies from `n / d`, counted in units of 2^(-149) / d, by the magnitudes. -/
theorem abs_units_sub (w : W32) (n : Int) (d : Nat) :
    |f32Units w * d - n * unitsPerOne| =
      if f32Sign w = decide (n < 0) then |(fieldUnits (f32Field w) * d : Int) - (n.natAbs * unitsPerOne : Nat)|
      else (fieldUnits (f32Field w) * d : Int) + (n.natAbs * unitsPerOne : Nat) := by
  have hunits : f32Units w * d =
      if f32Sign w then -(fieldUnits (f32Field w) * d : Int) else fieldUnits (f32Field w) * d := by
    rw [f32Units_eq]; split <;> ring
  have hn : n * unitsPerOne =
      if decide (n < 0) then -((n.natAbs * unitsPerOne : Nat) : Int) else (n.natAbs * unitsPerOne : Nat) := by
    push_cast
    simp only [decide_eq_true_eq]
    split
    · next h => rw [abs_of_neg h]; ring
    · next h => rw [abs_of_nonneg (not_lt.1 h)]
  rw [hunits, hn]
  exact abs_signed_sub _ _ (by positivity) (by positivity)

/-- The distance of a word's value from `n / d`, as an integer over a common denominator. -/
theorem abs_f32val_sub (w : W32) (n : Int) {d : Nat} (hd : 0 < d) :
    |f32val w - (n : Rat) / d| = ((|f32Units w * d - n * unitsPerOne| : Int) : Rat) / (d * unitsPerOne) := by
  have hd' : (0 : Rat) < d := by exact_mod_cast hd
  have hu : (0 : Rat) < unitsPerOne := by norm_num [unitsPerOne]
  have hdiff : f32val w - (n : Rat) / d = ((f32Units w * d - n * unitsPerOne : Int) : Rat) / (d * unitsPerOne) := by
    rw [f32val_eq_units]
    push_cast
    field_simp
  rw [hdiff, abs_div, abs_of_pos (mul_pos hd' hu), Int.cast_abs]

theorem f32Sign_f32rne {n : Int} (hn : n ≠ 0) {d : Nat} (hf : rneField (n.natAbs * unitsPerOne) d < 255 * 2 ^ 23) :
    f32Sign (f32rne n d) = decide (n < 0) := by
  rw [f32rne_of_ne_zero hn, f32Sign_f32Word _ (by omega)]

theorem f32Field_f32rne {n : Int} (hn : n ≠ 0) {d : Nat} (hf : rneField (n.natAbs * unitsPerOne) d < 255 * 2 ^ 23) :
    f32Field (f32rne n d) = rneField (n.natAbs * unitsPerOne) d := by
  rw [f32rne_of_ne_zero hn, f32Field_f32Word _ (by omega)]

/-- The rounding of a value in R45's domain has a finite word's field. -/
theorem rneField_lt_of_abs_lt {n : Int} {d : Nat} (hd : 0 < d) (hq : |(n : Rat) / d| < 2 ^ 127) :
    rneField (n.natAbs * unitsPerOne) d < 255 * 2 ^ 23 := by
  have hd' : (0 : Rat) < d := by exact_mod_cast hd
  refine (rneField_le (m := 252) ?_).trans_lt (by decide)
  rw [Nat.div_lt_iff_lt_mul hd, show 252 + 24 = 127 + 149 from rfl, pow_add, mul_right_comm]
  refine Nat.mul_lt_mul_of_pos_right ?_ (by decide)
  rw [abs_div, abs_of_pos hd', div_lt_iff₀ hd'] at hq
  have : ((n.natAbs : Nat) : Rat) < ((2 ^ 127 * d : Nat) : Rat) := by
    push_cast [Nat.cast_natAbs]
    exact hq
  exact_mod_cast this

/-- `f32rne` is nearer to `n / d` than a word of any other value, or it is as near and even. -/
theorem f32rne_nearest {n : Int} (hn : n ≠ 0) {d : Nat} (hd : 0 < d) (hq : |(n : Rat) / d| < 2 ^ 127) {w : W32}
    (hw : f32val w ≠ f32val (f32rne n d)) :
    |f32val (f32rne n d) - (n : Rat) / d| < |f32val w - (n : Rat) / d| ∨
      (|f32val (f32rne n d) - (n : Rat) / d| = |f32val w - (n : Rat) / d| ∧ (f32rne n d).getLsbD 0 = false) := by
  have hf := rneField_lt_of_abs_lt hd hq
  have hden : (0 : Rat) < d * unitsPerOne := mul_pos (by exact_mod_cast hd) (by norm_num [unitsPerOne])
  have hunits : f32Units w ≠ f32Units (f32rne n d) := fun h => hw (by rw [f32val_eq_units, f32val_eq_units, h])
  rw [abs_f32val_sub _ n hd, abs_f32val_sub w n hd, div_lt_div_iff_of_pos_right hden, div_left_inj' hden.ne', Int.cast_lt,
    Int.cast_inj, getLsbD_zero_eq_false_iff, abs_units_sub (f32rne n d), abs_units_sub w, f32Sign_f32rne hn hf,
    f32Field_f32rne hn hf, if_pos rfl]
  rw [f32Units_eq, f32Units_eq, f32Sign_f32rne hn hf, f32Field_f32rne hn hf] at hunits
  split
  · next hs =>
    rw [hs] at hunits
    exact rneField_nearest _ hd fun h => hunits (by rw [h])
  · refine rneField_nearest_of_sign_ne _ hd ?_
    by_contra! hzero
    simp [hzero] at hunits

/-- `f32rne` meets R45's definition on its whole domain. -/
theorem isF32Rne_f32rne (n : Int) {d : Nat} (hd : 0 < d) (hq : |(n : Rat) / d| < 2 ^ 127) :
    IsF32Rne ((n : Rat) / d) (f32rne n d) := by
  rcases eq_or_ne n 0 with rfl | hn
  · simpa [f32rne_zero] using isF32Rne_zero
  have hd' : (0 : Rat) < d := by exact_mod_cast hd
  have hf := rneField_lt_of_abs_lt hd hq
  refine ⟨?finite, fun w _ => ?nearest, fun w _ htie hw => ?tieEven, fun h => ?zero, fun _ => ?sign⟩
  case finite => rwa [isFinite_iff, f32Field_f32rne hn hf]
  case nearest =>
    by_cases hw : f32val w = f32val (f32rne n d)
    · rw [hw]
    · exact (f32rne_nearest hn hd hq hw).elim le_of_lt fun h => h.1.le
  case tieEven => exact ((f32rne_nearest hn hd hq hw).resolve_left htie.le.not_gt).2
  case zero => simp [hn, hd'.ne'] at h
  case sign =>
    rw [f32Sign_f32rne hn hf, decide_eq_true_eq, div_lt_iff₀ hd', zero_mul, Int.cast_lt_zero]

/-- A number strictly between two that are equally far from `q` is nearer to `q`. -/
theorem abs_sub_lt_of_between {x y z q : Rat} (h : x < y ∧ y < z ∨ z < y ∧ y < x) (hq : |x - q| = |z - q|) :
    |y - q| < |x - q| := by
  rcases abs_eq_abs.1 hq with heq | heq
  · have : x = z := by linarith
    rcases h with ⟨h, h'⟩ | ⟨h, h'⟩ <;> linarith
  · rcases h with ⟨h, h'⟩ | ⟨h, h'⟩
    · rw [abs_of_neg (show x - q < 0 by linarith), abs_lt]
      constructor <;> linarith
    · rw [abs_of_pos (show 0 < x - q by linarith), abs_lt]
      constructor <;> linarith

/-- Of two words of one sign and different even fields, some finite word lies strictly between. -/
theorem exists_f32val_between {w w' : W32} (hs : f32Sign w = f32Sign w') (hlt : f32Field w < f32Field w')
    (hfin : isFinite w' = true) (he : w.getLsbD 0 = false) (he' : w'.getLsbD 0 = false) :
    ∃ m : W32, isFinite m = true ∧
      (f32val w < f32val m ∧ f32val m < f32val w' ∨ f32val w' < f32val m ∧ f32val m < f32val w) := by
  rw [isFinite_iff] at hfin
  rw [getLsbD_zero_eq_false_iff] at he he'
  have hm : f32Field w + 1 < 2 ^ 31 := by omega
  have hlow := fieldUnits_strictMono (Nat.lt_add_one (f32Field w))
  have hhigh := fieldUnits_strictMono (show f32Field w + 1 < f32Field w' by omega)
  refine ⟨f32Word (f32Sign w) (f32Field w + 1), ?_, ?_⟩
  · rw [isFinite_iff, f32Field_f32Word _ hm]; omega
  · have hu : (0 : Rat) < unitsPerOne := by norm_num [unitsPerOne]
    simp only [f32val_eq_units, f32Units_eq, f32Sign_f32Word _ hm, f32Field_f32Word _ hm, ← hs,
      div_lt_div_iff_of_pos_right hu, Int.cast_lt]
    cases f32Sign w
    · left; simp only [Bool.false_eq_true, if_false]; omega
    · right; simp only [if_true]; omega

/-- Words of one sign and one value have one field. -/
theorem f32Field_eq_of_f32val_eq {w w' : W32} (hs : f32Sign w = f32Sign w') (hv : f32val w = f32val w') :
    f32Field w = f32Field w' := by
  have hu : (unitsPerOne : Rat) ≠ 0 := by norm_num [unitsPerOne]
  rw [f32val_eq_units, f32val_eq_units, div_left_inj' hu, Int.cast_inj, f32Units_eq, f32Units_eq, hs] at hv
  refine fieldUnits_strictMono.injective ?_
  split at hv <;> omega

/-- At most one word meets R45's definition. -/
theorem isF32Rne_unique {q : Rat} {w w' : W32} (h : IsF32Rne q w) (h' : IsF32Rne q w') : w = w' := by
  rcases eq_or_ne q 0 with hq | hq
  · rw [h.zero hq, h'.zero hq]
  have hs : f32Sign w = f32Sign w' := Bool.eq_iff_iff.2 ((h.sign hq).trans (h'.sign hq).symm)
  have hdist : |f32val w - q| = |f32val w' - q| := le_antisymm (h.nearest w' h'.finite) (h'.nearest w h.finite)
  refine eq_of_f32Sign_f32Field hs ?_
  by_contra hne
  have hval : f32val w ≠ f32val w' := mt (f32Field_eq_of_f32val_eq hs) hne
  have he := h.tieEven w' h'.finite hdist.symm hval.symm
  have he' := h'.tieEven w h.finite hdist hval
  rcases lt_or_gt_of_ne hne with hlt | hgt
  · obtain ⟨m, hm, hbetween⟩ := exists_f32val_between hs hlt h'.finite he he'
    exact (h.nearest m hm).not_gt (abs_sub_lt_of_between hbetween hdist)
  · obtain ⟨m, hm, hbetween⟩ := exists_f32val_between hs.symm hgt h.finite he' he
    exact (h'.nearest m hm).not_gt (abs_sub_lt_of_between hbetween hdist.symm)

end Sys2Proof.Machine

/-! ### Counts as binary32 words, and what the TC helpers give (41_tempconv R83 to R87) -/

namespace Sys2Proof.Machine

/-- Rounding an exact quotient changes nothing. -/
theorem rneDiv_mul_of_dvd {a b : Nat} (hb : 0 < b) (h : b ∣ a) : rneDiv a b * b = a := by
  have hmod : a % b = 0 := Nat.mod_eq_zero_of_dvd h
  rcases rneDiv_cases a b with ⟨heq, -⟩ | ⟨-, hr⟩
  · rw [heq, Nat.div_mul_cancel h]
  · omega

/-- An integer of at most 24 bits is a binary32 value, so `f32rne` is exact on it. -/
theorem f32Units_f32rne_of_lt {n : Int} (hn : n.natAbs < 2 ^ 24) : f32Units (f32rne n 1) = n * unitsPerOne := by
  rcases eq_or_ne n 0 with rfl | hn0
  · rw [f32rne_zero, zero_mul]; decide
  have hlt : n.natAbs * unitsPerOne / 1 < 2 ^ (149 + 24) := by
    rw [Nat.div_one, pow_add, mul_comm]
    exact Nat.mul_lt_mul_of_pos_left hn (by decide)
  have hf : rneField (n.natAbs * unitsPerOne) 1 < 255 * 2 ^ 23 := (rneField_le hlt).trans_lt (by decide)
  have hk : rneStep (n.natAbs * unitsPerOne) 1 ≤ 149 := rneStep_le hlt
  have hdvd : 2 ^ rneStep (n.natAbs * unitsPerOne) 1 ∣ n.natAbs * unitsPerOne :=
    (pow_dvd_pow 2 hk).trans (Dvd.intro_left _ rfl)
  rw [f32Units_eq, f32Sign_f32rne hn0 hf, f32Field_f32rne hn0 hf, fieldUnits_rneField, one_mul,
    rneDiv_mul_of_dvd (Nat.two_pow_pos _) hdvd]
  simp only [decide_eq_true_eq]
  split <;> push_cast
  · next h => rw [abs_of_neg h]; ring
  · next h => rw [abs_of_nonneg (not_lt.1 h)]

/-- A TOLIN of a finite word clamps the exact conversion (41_tempconv R85, R86). -/
theorem tolin_of_isFinite {w : W32} (hw : isFinite w = true) (u : TUnit) :
    tolin w u = ⟨resOfCount (sat16 (linearOf (f32Units w) u)),
      decide (sat16 (linearOf (f32Units w) u) ≠ linearOf (f32Units w) u), false⟩ := by
  rw [isFinite, bne_iff_ne] at hw
  simp [tolin, isNan, isInf, hw]

/-- Every TOLIN result is a sign-extended count (10_state R12). -/
theorem exists_tolin_res_eq (w : W32) (u : TUnit) : ∃ x : Half, (tolin w u).res = x.signExtend 32 := by
  unfold tolin
  split
  · exact ⟨_, rfl⟩
  · split <;> exact ⟨_, rfl⟩

/-- Truncation undoes a multiplication by the denominator. -/
theorem tzDiv_mul_cancel (n : Int) {d : Nat} (hd : 0 < d) : tzDiv (n * d) d = n := by
  have hd' : (d : Int) ≠ 0 := by omega
  unfold tzDiv
  split
  · exact Int.mul_ediv_cancel n hd'
  · rw [← Int.neg_mul, Int.mul_ediv_cancel _ hd', Int.neg_neg]

/-- TC.TOLIN.R of a count's own binary32 word gives the count back. -/
theorem tolin_raw_f32rne (x : Half) : (tolin (f32rne x.toInt 1) .raw).res = x.signExtend 32 := by
  have hlow : -32768 ≤ x.toInt := x.le_toInt
  have hhigh : x.toInt < 32768 := x.toInt_lt
  have hunits : linearOf (f32Units (f32rne x.toInt 1)) .raw = x.toInt := by
    rw [f32Units_f32rne_of_lt (by omega)]
    exact tzDiv_mul_cancel x.toInt (by decide)
  have hq : |(x.toInt : Rat) / (1 : Nat)| < 2 ^ 127 := by
    have hlow' : (-32768 : Rat) ≤ x.toInt := by exact_mod_cast hlow
    have hhigh' : (x.toInt : Rat) < 32768 := by exact_mod_cast hhigh
    rw [Nat.cast_one, div_one, abs_lt]
    constructor <;> norm_num <;> linarith
  rw [tolin_of_isFinite (isF32Rne_f32rne x.toInt one_pos hq).finite, hunits, sat16_of_fits hlow (by omega), resOfCount,
    BitVec.ofInt_toInt]

/-- The integer form of FL is FL in thousandths (41_tempconv R101). -/
theorem thousandths_div (n : Int) (u : TUnit) : (thousandths n u : Rat) / (1000 : Nat) = exactFL n u := by
  cases u <;> simp only [thousandths, exactFL] <;> push_cast <;> ring

/-- Every FROMLIN result is the one rounding of the exact value (41_tempconv R87). -/
theorem isF32Rne_fromlin (r : Half) (u : TUnit) : IsF32Rne (exactFL r.toInt u) (fromlin r u).res := by
  have hlow : -32768 ≤ r.toInt := r.le_toInt
  have hhigh : r.toInt < 32768 := r.toInt_lt
  have hbound : |thousandths r.toInt u| < 2 ^ 127 := by
    rw [abs_lt]
    cases u <;> simp only [thousandths] <;> omega
  rw [← thousandths_div]
  refine isF32Rne_f32rne _ (by decide) ?_
  have hbound' : |(thousandths r.toInt u : Rat)| < 2 ^ 127 := by exact_mod_cast hbound
  rw [abs_div, Nat.abs_cast]
  exact (div_le_self (abs_nonneg _) (by norm_num)).trans_lt hbound'

/-- The result of a FROMLIN is the only word that meets R45's definition. -/
theorem fromlin_res_eq {r : Half} {u : TUnit} {v : W32} (h : IsF32Rne (exactFL r.toInt u) v) : (fromlin r u).res = v :=
  isF32Rne_unique (isF32Rne_fromlin r u) h

end Sys2Proof.Machine

/-! ### Runs from reset, and what every reachable state keeps (10_state R22) -/

namespace Sys2Proof.Machine

open Sys2Proof.Claims

/-- The decoder reads a command back from its word (30_encoding R46, R52). -/
theorem decode_encode (i : Instr) : decode (encode i) = .legal i := by
  cases i with
  | crcInit => decide
  | _ => simp [encode, wordB, wordH, wordF, decode, decodeB, decodeH, decodeF]

/-- Every command is one write: of CRC, of a TOLIN result, or of a FROMLIN result. -/
theorem commandEffect_cases (i : Instr) :
    (∃ f : Byte → Byte, ∀ s, commandEffect i s = s.setCrc (f s.crc)) ∨
    (∃ w u, ∀ s, commandEffect i s = s.setTc (tolin w u).res (tolin w u).range (tolin w u).invalid) ∨
    (∃ r u, ∀ s, commandEffect i s = s.setTc (fromlin r u).res false false) := by
  cases i with
  | crcInit | crcFold _ | crcLoad _ => exact .inl (commandEffect_of_crc rfl)
  | tcTolinC w | tcTolinF w | tcTolinK w | tcTolinR w => exact .inr (.inl ⟨w, _, fun _ => rfl⟩)
  | tcFromlinC r | tcFromlinF r | tcFromlinK r | tcFromlinR r => exact .inr (.inr ⟨r, _, fun _ => rfl⟩)

/-- A run of any machine takes its first step and runs on. -/
theorem coreRun_succ {M : Host.Core} {s s' : M.State} (h : M.step s = .next s') (k : Nat) : M.run (k + 1) s = M.run k s' := by
  rw [Host.Core.run, h]

/-- A run of the block takes its first step and runs on. -/
theorem run_succ {s s' : State} (h : step s = .next s') (k : Nat) :
    Host.Core.run Sys2Proof.core (k + 1) s = Host.Core.run Sys2Proof.core k s' :=
  coreRun_succ (M := Sys2Proof.core) h k

/-- What every step keeps, every run keeps. -/
theorem run_invariant {P : State → Prop} (hstep : ∀ s t, P s → step s = .next t → P t) {k : Nat} {s t : State} (hs : P s)
    (hrun : Host.Core.run Sys2Proof.core k s = .next t) : P t := by
  induction k generalizing s with
  | zero => exact Host.Outcome.next.inj hrun ▸ hs
  | succ k ih =>
    obtain ⟨s', hs'⟩ := exists_step_eq_next s
    rw [run_succ hs'] at hrun
    exact ih (hstep s s' hs hs') hrun

/-- What holds after reset, whatever events are pending, and is kept by every step, holds of every reachable state. -/
theorem reachable_invariant {P : State → Prop} (hreset : ∀ evs, P { State.reset with pending := evs })
    (hstep : ∀ s t, P s → step s = .next t → P t) {t : State} (ht : Reachable t) : P t := by
  obtain ⟨evs, hrun⟩ := ht
  exact run_invariant hstep (hreset evs) hrun

/-- The effect of any one command on the reset state is reached. -/
theorem reachable_commandEffect_reset (i : Instr) : Reachable (commandEffect i State.reset) := by
  refine ⟨[.command (encode i)], ?_⟩
  exact run_succ (step_of_legal rfl (decode_encode i)) 0

/-- RES as the TC rules produce it: a sign-extended count, or a FROMLIN result (10_state R22). -/
def IsTcResult (v : W32) : Prop :=
  (∃ x : Half, v = x.signExtend 32) ∨ ∃ (u : TUnit) (r : Half), IsF32Rne (exactFL r.toInt u) v

theorem isTcResult_reset : IsTcResult State.reset.res := .inl ⟨0#16, by decide⟩

/-- Every step keeps RES among the TC rules' results. -/
theorem step_keeps_isTcResult (s t : State) (hs : IsTcResult s.res) (h : step s = .next t) : IsTcResult t.res := by
  rcases step_cases h with ⟨-, rfl⟩ | ⟨rest, -, rfl⟩ | ⟨w, rest, i, -, -, rfl⟩ | ⟨w, rest, why, -, -, rfl⟩
  · exact hs
  · exact isTcResult_reset
  · rcases commandEffect_cases i with ⟨f, hf⟩ | ⟨w, u, hf⟩ | ⟨r, u, hf⟩ <;> rw [hf]
    · exact hs
    · exact .inl (exists_tolin_res_eq w u)
    · exact .inr ⟨u, r, isF32Rne_fromlin r u⟩
  · exact hs

theorem flagsLegal_reset : FlagsLegal State.reset := by decide

/-- Every step keeps RANGE and INVALID from being both 1 (10_state R14). -/
theorem step_keeps_flagsLegal (s t : State) (hs : FlagsLegal s) (h : step s = .next t) : FlagsLegal t := by
  rcases step_cases h with ⟨-, rfl⟩ | ⟨rest, -, rfl⟩ | ⟨w, rest, i, -, -, rfl⟩ | ⟨w, rest, why, -, -, rfl⟩
  · exact hs
  · exact flagsLegal_reset
  · rcases commandEffect_cases i with ⟨f, hf⟩ | ⟨w, u, hf⟩ | ⟨r, u, hf⟩ <;> rw [hf]
    · exact hs
    · simpa [FlagsLegal, State.range, State.invalid] using tolin_flags w u
    · simp [FlagsLegal, State.range]
  · simpa [FlagsLegal, State.range, State.invalid] using hs

/-- FLAGS with RANGE and INVALID not both 1, by their six values. -/
theorem flagsLegal_iff (s : State) :
    FlagsLegal s ↔ s.flags ∈ [0b000#3, 0b001#3, 0b010#3, 0b100#3, 0b101#3, 0b110#3] := by
  unfold FlagsLegal State.range State.invalid
  generalize s.flags = f
  revert f; decide

/-- Settles O1: each register and flag of the reset state, evaluated. -/
theorem resetStateHoldsTheSpecsValues : Obligations.ResetStateHoldsTheSpecsValues := by
  unfold Obligations.ResetStateHoldsTheSpecsValues
  decide

/-- Every byte is reached in CRC, by CRC.LOAD. -/
theorem exists_reachable_crc (c : Byte) : ∃ t, Reachable t ∧ t.crc = c :=
  ⟨_, reachable_commandEffect_reset (.crcLoad c), rfl⟩

/-- RES reaches the TC rules' results and no other word: a count by TC.TOLIN.R, a FROMLIN result by its own command. -/
theorem exists_reachable_res_iff (v : W32) : (∃ t, Reachable t ∧ t.res = v) ↔ IsTcResult v := by
  constructor
  · rintro ⟨t, ht, rfl⟩
    exact reachable_invariant (P := fun s => IsTcResult s.res) (fun _ => isTcResult_reset) step_keeps_isTcResult ht
  · rintro (⟨x, rfl⟩ | ⟨u, r, hv⟩)
    · exact ⟨_, reachable_commandEffect_reset (.tcTolinR (f32rne x.toInt 1)), tolin_raw_f32rne x⟩
    · refine ⟨_, reachable_commandEffect_reset (.fromlin u r), ?_⟩
      rw [← fromlin_res_eq hv]
      cases u <;> rfl

/-- The six values of FLAGS are reached: no condition, infinity, NaN, and the same after an illegal word. -/
theorem exists_reachable_flags {f : BitVec 3} (hf : f ∈ [0b000#3, 0b001#3, 0b010#3, 0b100#3, 0b101#3, 0b110#3]) :
    ∃ t, Reachable t ∧ t.flags = f := by
  simp only [List.mem_cons, List.not_mem_nil, or_false] at hf
  rcases hf with rfl | rfl | rfl | rfl | rfl | rfl
  · exact ⟨_, ⟨[], rfl⟩, rfl⟩
  · exact ⟨_, ⟨[.command 0x207F800000#40], rfl⟩, rfl⟩
  · exact ⟨_, ⟨[.command 0x207FC00000#40], rfl⟩, rfl⟩
  · exact ⟨_, ⟨[.command 0xFFFFFFFFFF#40], rfl⟩, rfl⟩
  · exact ⟨_, ⟨[.command 0xFFFFFFFFFF#40, .command 0x207F800000#40], rfl⟩, rfl⟩
  · exact ⟨_, ⟨[.command 0xFFFFFFFFFF#40, .command 0x207FC00000#40], rfl⟩, rfl⟩

/-- FLAGS reaches six values and no other. -/
theorem exists_reachable_flags_iff (f : BitVec 3) : (∃ t, Reachable t ∧ t.flags = f) ↔
    f ∈ [0b000#3, 0b001#3, 0b010#3, 0b100#3, 0b101#3, 0b110#3] := by
  refine ⟨?_, exists_reachable_flags⟩
  rintro ⟨t, ht, rfl⟩
  refine (flagsLegal_iff t).1 ?_
  exact reachable_invariant (P := fun s => FlagsLegal s) (fun _ => flagsLegal_reset) step_keeps_flagsLegal ht

/-- Settles O58: a value is reached by at most two words from reset, the reachable values of RES and FLAGS are an invariant of the
step, and no state is trapped, since every step completes. -/
theorem reachableRegisterValues : Obligations.ReachableRegisterValues :=
  ⟨exists_reachable_crc, exists_reachable_res_iff, exists_reachable_flags_iff, fun _ _ => exists_step_eq_next _⟩

end Sys2Proof.Machine

/-! ### A list of events as the composition of its events' effects (20_memory R35) -/

namespace Sys2Proof.Machine

open Sys2Proof.Claims

/-- What one event does to the registers: the reset values, a command's effect, or ILL raised. -/
def eventEffect (s : State) (e : HostEvent) : State :=
  match e with
  | .reset => s.applyReset
  | .command w =>
    match decode w with
    | .legal i => commandEffect i s
    | .illegal _ => s.raiseIll

theorem eventEffect_of_legal {w : Cmd} {i : Instr} (hd : decode w = .legal i) (s : State) :
    eventEffect s (.command w) = commandEffect i s := by
  simp [eventEffect, hd]

theorem eventEffect_of_illegal {w : Cmd} {why : IllegalWord} (hd : decode w = .illegal why) (s : State) :
    eventEffect s (.command w) = s.raiseIll := by
  simp [eventEffect, hd]

/-- No command reads the pending events, and a command keeps them. -/
theorem commandEffect_with_pending (i : Instr) (s : State) (evs : List HostEvent) :
    commandEffect i { s with pending := evs } = { commandEffect i s with pending := evs } := by
  cases i <;> rfl

/-- A step takes the first pending event and has its effect. -/
theorem step_of_cons (s : State) (e : HostEvent) (rest : List HostEvent) :
    step { s with pending := e :: rest } = .next { eventEffect s e with pending := rest } := by
  cases e with
  | reset => exact step_of_reset rfl
  | command w =>
    cases hd : decode w with
    | legal i =>
      rw [eventEffect_of_legal hd, ← commandEffect_with_pending]
      exact step_of_legal rfl hd
    | illegal why =>
      rw [eventEffect_of_illegal hd]
      exact step_of_illegal (s := { s with pending := .command w :: rest }) rfl hd

/-- A run over a list of events begins with the first event's effect. -/
theorem runEvents_cons (e : HostEvent) (evs : List HostEvent) (s : State) :
    runEvents (e :: evs) s = runEvents evs (eventEffect s e) :=
  run_succ (step_of_cons s e evs) evs.length

/-- A run over a list of events is the left-to-right composition of the events' effects, and no event is left. -/
theorem runEvents_eq_foldl (evs : List HostEvent) (s : State) :
    runEvents evs s = .next { evs.foldl eventEffect s with pending := [] } := by
  induction evs generalizing s with
  | nil => rfl
  | cons e evs ih => rw [runEvents_cons, ih, List.foldl_cons]

/-- A run presents its own events: what was pending before does not matter. -/
theorem runEvents_with_pending (evs pend : List HostEvent) (s : State) :
    runEvents evs { s with pending := pend } = runEvents evs s := rfl

/-- Settles O12: a run is a fold of the events' effects, and the fold over two lists is the fold over the second from the first's
end. -/
theorem eventSequencesCompose : Obligations.EventSequencesCompose := by
  intro evs evs' s
  refine ⟨_, runEvents_eq_foldl evs s, rfl, ?_⟩
  calc runEvents (evs ++ evs') s
    _ = .next { evs'.foldl eventEffect (evs.foldl eventEffect s) with pending := [] } := by
      rw [runEvents_eq_foldl, List.foldl_append]
    _ = runEvents evs' (evs.foldl eventEffect s) := (runEvents_eq_foldl _ _).symm
    _ = runEvents evs' { evs.foldl eventEffect s with pending := [] } := (runEvents_with_pending _ _ _).symm

end Sys2Proof.Machine

/-! ### The legal words by format, and the decoder as the opcode table (30_encoding R41, R42, R46) -/

namespace Sys2Proof

open Sys2Proof.Laws.RowMatch

/-- A word whose `op` and `arg` are known is their concatenation. -/
theorem eq_append_of_fields {w : Cmd} {op : Byte} {arg : W32} (hop : opOf w = op) (harg : argOf w = arg) :
    w = (op ++ arg : Cmd) := by
  rw [← hop, ← harg, opOf_argOf]

/-- A word that format N accepts is the encoder's word. -/
theorem eq_encode_of_decodeN {w : Cmd} {op : Byte} {i j : Instr} (hop : opOf w = op)
    (h : decodeN (argOf w) j = .legal i) (henc : encode j = wordN op) : w = encode i := by
  unfold decodeN at h
  split at h
  · next harg =>
    cases h
    rw [henc, wordN, eq_append_of_fields hop harg]
  · cases h

/-- A word that format B accepts is the encoder's word. -/
theorem eq_encode_of_decodeB {w : Cmd} {op : Byte} {i : Instr} {mk : Byte → Instr} (hop : opOf w = op)
    (h : decodeB (argOf w) mk = .legal i) (henc : ∀ b, encode (mk b) = wordB op b) : w = encode i := by
  unfold decodeB at h
  split at h
  · next harg =>
    cases h
    rw [henc, wordB, argB_of_high24 harg, ← hop, opOf_argOf]
  · cases h

/-- A word that format H accepts is the encoder's word. -/
theorem eq_encode_of_decodeH {w : Cmd} {op : Byte} {i : Instr} {mk : Half → Instr} (hop : opOf w = op)
    (h : decodeH (argOf w) mk = .legal i) (henc : ∀ r, encode (mk r) = wordH op r) : w = encode i := by
  unfold decodeH at h
  split at h
  · next harg =>
    cases h
    rw [henc, wordH, argH_of_high16 harg, ← hop, opOf_argOf]
  · cases h

/-- A word of format F is the encoder's word. -/
theorem eq_encode_of_decodeF {w : Cmd} {op : Byte} {i : Instr} {mk : W32 → Instr} (hop : opOf w = op)
    (h : decodeF (argOf w) mk = .legal i) (henc : ∀ v, encode (mk v) = wordF op v) : w = encode i := by
  cases h
  rw [henc, wordF, ← hop, opOf_argOf]

/-- A legal word is the word of its command: the decoder's branch gives the op and the format. -/
theorem eq_encode_of_decode {w : Cmd} {i : Instr} (h : decode w = .legal i) : w = encode i := by
  unfold decode at h
  obtain ⟨hop, h⟩ | ⟨-, h⟩ := ite_eq_iff.1 h
  · exact eq_encode_of_decodeN hop h rfl
  obtain ⟨hop, h⟩ | ⟨-, h⟩ := ite_eq_iff.1 h
  · exact eq_encode_of_decodeB hop h fun _ => rfl
  obtain ⟨hop, h⟩ | ⟨-, h⟩ := ite_eq_iff.1 h
  · exact eq_encode_of_decodeB hop h fun _ => rfl
  obtain ⟨hop, h⟩ | ⟨-, h⟩ := ite_eq_iff.1 h
  · exact eq_encode_of_decodeF hop h fun _ => rfl
  obtain ⟨hop, h⟩ | ⟨-, h⟩ := ite_eq_iff.1 h
  · exact eq_encode_of_decodeF hop h fun _ => rfl
  obtain ⟨hop, h⟩ | ⟨-, h⟩ := ite_eq_iff.1 h
  · exact eq_encode_of_decodeF hop h fun _ => rfl
  obtain ⟨hop, h⟩ | ⟨-, h⟩ := ite_eq_iff.1 h
  · exact eq_encode_of_decodeF hop h fun _ => rfl
  obtain ⟨hop, h⟩ | ⟨-, h⟩ := ite_eq_iff.1 h
  · exact eq_encode_of_decodeH hop h fun _ => rfl
  obtain ⟨hop, h⟩ | ⟨-, h⟩ := ite_eq_iff.1 h
  · exact eq_encode_of_decodeH hop h fun _ => rfl
  obtain ⟨hop, h⟩ | ⟨-, h⟩ := ite_eq_iff.1 h
  · exact eq_encode_of_decodeH hop h fun _ => rfl
  obtain ⟨hop, h⟩ | ⟨-, h⟩ := ite_eq_iff.1 h
  · exact eq_encode_of_decodeH hop h fun _ => rfl
  cases h

/-- The decoder accepts the encoder's words and no other. -/
theorem decode_eq_legal_iff (w : Cmd) (i : Instr) : decode w = .legal i ↔ w = encode i :=
  ⟨eq_encode_of_decode, fun h => h ▸ Machine.decode_encode i⟩

/-- Masking with `op` kept whole fixes the op and leaves the masked argument zero. -/
theorem fields_of_masked {w : Cmd} {op : Byte} {m : W32}
    (h : w &&& (BitVec.allOnes 8 ++ m : Cmd) = (op ++ 0#32 : Cmd)) : opOf w = op ∧ argOf w &&& m = 0#32 := by
  rw [← opOf_argOf w, command_and, BitVec.and_allOnes] at h
  exact ⟨by simpa using congrArg opOf h, by simpa using congrArg argOf h⟩

/-- The format N mask selects one word. -/
theorem eq_wordN_of_masked {w : Cmd} {op : Byte} (h : w &&& 0xFFFFFFFFFF#40 = (op ++ 0#32 : Cmd)) : w = wordN op :=
  (BitVec.and_allOnes (x := w)).symm.trans h

/-- The format B mask selects words of format B. -/
theorem exists_eq_wordB_of_masked {w : Cmd} {op : Byte} (h : w &&& 0xFFFFFFFF00#40 = (op ++ 0#32 : Cmd)) :
    ∃ b, w = wordB op b := by
  obtain ⟨hop, harg⟩ := fields_of_masked (m := 0xFFFFFF00#32) h
  have hhigh : (argOf w).extractLsb' 8 24 &&& BitVec.allOnes 24 = 0#24 := by
    simpa [BitVec.extractLsb'_and] using congrArg (BitVec.extractLsb' 8 24) harg
  rw [BitVec.and_allOnes] at hhigh
  exact ⟨_, eq_append_of_fields hop (argB_of_high24 hhigh).symm⟩

/-- The format H mask selects words of format H. -/
theorem exists_eq_wordH_of_masked {w : Cmd} {op : Byte} (h : w &&& 0xFFFFFF0000#40 = (op ++ 0#32 : Cmd)) :
    ∃ r, w = wordH op r := by
  obtain ⟨hop, harg⟩ := fields_of_masked (m := 0xFFFF0000#32) h
  have hhigh : (argOf w).extractLsb' 16 16 &&& BitVec.allOnes 16 = 0#16 := by
    simpa [BitVec.extractLsb'_and] using congrArg (BitVec.extractLsb' 16 16) harg
  rw [BitVec.and_allOnes] at hhigh
  exact ⟨_, eq_append_of_fields hop (argH_of_high16 hhigh).symm⟩

/-- The format F mask selects words of format F. -/
theorem exists_eq_wordF_of_masked {w : Cmd} {op : Byte} (h : w &&& 0xFF00000000#40 = (op ++ 0#32 : Cmd)) :
    ∃ v, w = wordF op v :=
  ⟨_, eq_append_of_fields (fields_of_masked (m := 0#32) h).1 rfl⟩

/-- A command's word is one of its row (30_encoding R46). -/
theorem row_selects_encode (i : Instr) : i.row.selects (encode i) = true := by
  refine beq_iff_eq.2 ?_
  cases i with
  | crcInit => exact crcInit
  | crcFold b => exact crcFold b
  | crcLoad b => exact crcLoad b
  | tcTolinC | tcTolinF | tcTolinK | tcTolinR => exact mask_wordF _ _
  | tcFromlinC | tcFromlinF | tcFromlinK | tcFromlinR => exact mask_wordH _ _

/-- A word that a command's row selects is the word of a command of that row, the operand read from the word. -/
theorem exists_encode_of_row_selects {j : Instr} {w : Cmd} (h : j.row.selects w = true) :
    ∃ i : Instr, w = encode i ∧ i.row = j.row := by
  have hmask : w &&& j.row.mask = j.row.bits := beq_iff_eq.1 h
  cases j with
  | crcInit => exact ⟨.crcInit, eq_wordN_of_masked hmask, rfl⟩
  | crcFold => exact (exists_eq_wordB_of_masked hmask).imp' Instr.crcFold fun _ hw => ⟨hw, rfl⟩
  | crcLoad => exact (exists_eq_wordB_of_masked hmask).imp' Instr.crcLoad fun _ hw => ⟨hw, rfl⟩
  | tcTolinC => exact (exists_eq_wordF_of_masked hmask).imp' Instr.tcTolinC fun _ hw => ⟨hw, rfl⟩
  | tcTolinF => exact (exists_eq_wordF_of_masked hmask).imp' Instr.tcTolinF fun _ hw => ⟨hw, rfl⟩
  | tcTolinK => exact (exists_eq_wordF_of_masked hmask).imp' Instr.tcTolinK fun _ hw => ⟨hw, rfl⟩
  | tcTolinR => exact (exists_eq_wordF_of_masked hmask).imp' Instr.tcTolinR fun _ hw => ⟨hw, rfl⟩
  | tcFromlinC => exact (exists_eq_wordH_of_masked hmask).imp' Instr.tcFromlinC fun _ hw => ⟨hw, rfl⟩
  | tcFromlinF => exact (exists_eq_wordH_of_masked hmask).imp' Instr.tcFromlinF fun _ hw => ⟨hw, rfl⟩
  | tcFromlinK => exact (exists_eq_wordH_of_masked hmask).imp' Instr.tcFromlinK fun _ hw => ⟨hw, rfl⟩
  | tcFromlinR => exact (exists_eq_wordH_of_masked hmask).imp' Instr.tcFromlinR fun _ hw => ⟨hw, rfl⟩

/-- A row of the table selects exactly the words that decode to a command of that row. -/
theorem selects_iff_decode {r : OpRow} (hr : r ∈ opcodeTable) (w : Cmd) :
    r.selects w = true ↔ ∃ i, decode w = .legal i ∧ i.row = r := by
  obtain ⟨j, -, rfl⟩ := List.mem_map.1 hr
  constructor
  · intro h
    obtain ⟨i, hw, hrow⟩ := exists_encode_of_row_selects h
    exact ⟨i, (decode_eq_legal_iff w i).2 hw, hrow⟩
  · rintro ⟨i, hd, hrow⟩
    rw [(decode_eq_legal_iff w i).1 hd, ← hrow]
    exact row_selects_encode i

/-- No word is in two rows: it decodes to one command, which has one row. -/
theorem row_unique {w : Cmd} {r r' : OpRow} (hr : r ∈ opcodeTable) (hr' : r' ∈ opcodeTable) (h : r.selects w = true)
    (h' : r'.selects w = true) : r = r' := by
  obtain ⟨i, hd, rfl⟩ := (selects_iff_decode hr w).1 h
  obtain ⟨i', hd', rfl⟩ := (selects_iff_decode hr' w).1 h'
  rw [Decoded.legal.inj (hd.symm.trans hd')]

/-- Settles O10: the decoder accepts the encoder's words only, and a row's mask keeps the op and the must-be-zero bits of the row's
format, so the words it selects are the encoder's words with that op. -/
theorem decoderAgreesWithTheOpcodeTable : Obligations.DecoderAgreesWithTheOpcodeTable :=
  ⟨decode_eq_legal_iff, fun w _ hr => selects_iff_decode hr w, fun _ _ hr _ hr' => row_unique hr hr'⟩

end Sys2Proof

/-! ### The group and the function of a legal word (30_encoding R42, R43) -/

namespace Sys2Proof

open Sys2Proof.Claims

/-- A word that decodes to no command is illegal. -/
theorem exists_illegal_of_forall_ne {w : Cmd} (h : ∀ i, decode w ≠ .legal i) : ∃ why, decode w = .illegal why := by
  cases hd : decode w with
  | legal i => exact absurd hd (h i)
  | illegal why => exact ⟨why, rfl⟩

/-- Group 1 is the CRC unit, group 2 the TC unit (30_encoding R42). -/
theorem grpOf_encode (i : Instr) : grpOf (encode i) = if isTc i then 2#4 else 1#4 := by
  cases i with
  | crcInit => decide
  | _ => simp [grpOf, encode, wordB, wordF, wordH, isTc]

/-- A legal word is in group 1 or in group 2, as its command's unit says. -/
theorem grpOf_of_decode {w : Cmd} {i : Instr} (hd : decode w = .legal i) :
    (grpOf w = 1#4 ∧ isTc i = false) ∨ (grpOf w = 2#4 ∧ isTc i = true) := by
  rw [(decode_eq_legal_iff w i).1 hd, grpOf_encode]
  cases isTc i <;> decide

theorem isTc_of_grpOf_one {w : Cmd} {i : Instr} (hd : decode w = .legal i) (hg : grpOf w = 1#4) : isTc i = false := by
  simpa [hg] using grpOf_of_decode hd

theorem isTc_of_grpOf_two {w : Cmd} {i : Instr} (hd : decode w = .legal i) (hg : grpOf w = 2#4) : isTc i = true := by
  simpa [hg] using grpOf_of_decode hd

theorem fnOf_encode_crcInit : fnOf (encode .crcInit) = 0#4 := by decide

theorem fnOf_encode_crcFold (b : Byte) : fnOf (encode (.crcFold b)) = 1#4 := by
  simp [fnOf, encode, wordB]

theorem fnOf_encode_crcLoad (b : Byte) : fnOf (encode (.crcLoad b)) = 2#4 := by
  simp [fnOf, encode, wordB]

/-- fn in the TC unit: fn[3] = 0, the direction in fn[2], the unit's code in fn[1:0] (30_encoding R42). -/
def tcFn (fromLinear : Bool) (u : TUnit) : BitVec 4 := 0#1 ++ (BitVec.ofBool fromLinear ++ u.code : BitVec 3)

theorem tcFn_bits (d : Bool) (u : TUnit) :
    (tcFn d u).getLsbD 3 = false ∧ (tcFn d u).getLsbD 2 = d ∧ (tcFn d u).extractLsb' 0 2 = u.code := by
  cases d <;> cases u <;> decide

theorem fnOf_encode_tolin (u : TUnit) (v : W32) : fnOf (encode (.tolin u v)) = tcFn false u := by
  cases u <;> simp [fnOf, encode, wordF, Instr.tolin, tcFn, TUnit.code]

theorem fnOf_encode_fromlin (u : TUnit) (r : Half) : fnOf (encode (.fromlin u r)) = tcFn true u := by
  cases u <;> simp [fnOf, encode, wordH, Instr.fromlin, tcFn, TUnit.code]

/-- Every TC command is a unit's TOLIN or a unit's FROMLIN. -/
theorem exists_unit_of_isTc {i : Instr} (hi : isTc i = true) : ∃ u : TUnit, (∃ v, i = .tolin u v) ∨ ∃ r, i = .fromlin u r := by
  cases i with
  | crcInit | crcFold _ | crcLoad _ => cases hi
  | tcTolinC v => exact ⟨.celsius, .inl ⟨v, rfl⟩⟩
  | tcTolinF v => exact ⟨.fahrenheit, .inl ⟨v, rfl⟩⟩
  | tcTolinK v => exact ⟨.kelvin, .inl ⟨v, rfl⟩⟩
  | tcTolinR v => exact ⟨.raw, .inl ⟨v, rfl⟩⟩
  | tcFromlinC r => exact ⟨.celsius, .inr ⟨r, rfl⟩⟩
  | tcFromlinF r => exact ⟨.fahrenheit, .inr ⟨r, rfl⟩⟩
  | tcFromlinK r => exact ⟨.kelvin, .inr ⟨r, rfl⟩⟩
  | tcFromlinR r => exact ⟨.raw, .inr ⟨r, rfl⟩⟩

/-- In the CRC unit, fn 0, 1, 2 are INIT, FOLD, LOAD (30_encoding R42). -/
theorem crcCommand_of_decode {w : Cmd} {i : Instr} (hd : decode w = .legal i) (hg : grpOf w = 1#4) :
    (fnOf w = 0#4 ∧ i = .crcInit) ∨ (fnOf w = 1#4 ∧ ∃ b, i = .crcFold b) ∨ (fnOf w = 2#4 ∧ ∃ b, i = .crcLoad b) := by
  have hi := isTc_of_grpOf_one hd hg
  obtain rfl := (decode_eq_legal_iff w i).1 hd
  cases i with
  | crcInit => exact .inl ⟨fnOf_encode_crcInit, rfl⟩
  | crcFold b => exact .inr (.inl ⟨fnOf_encode_crcFold b, b, rfl⟩)
  | crcLoad b => exact .inr (.inr ⟨fnOf_encode_crcLoad b, b, rfl⟩)
  | _ => cases hi

/-- In the TC unit, fn[3] = 0, fn[1:0] is the unit and fn[2] the direction (30_encoding R42). -/
theorem tcCommand_of_decode {w : Cmd} {i : Instr} (hd : decode w = .legal i) (hg : grpOf w = 2#4) :
    (fnOf w).getLsbD 3 = false ∧ ∃ u : TUnit, (fnOf w).extractLsb' 0 2 = u.code ∧
      (((fnOf w).getLsbD 2 = false ∧ ∃ v, i = .tolin u v) ∨ ((fnOf w).getLsbD 2 = true ∧ ∃ r, i = .fromlin u r)) := by
  obtain ⟨u, hu⟩ := exists_unit_of_isTc (isTc_of_grpOf_two hd hg)
  obtain rfl := (decode_eq_legal_iff w i).1 hd
  rcases hu with ⟨v, rfl⟩ | ⟨r, rfl⟩
  · rw [fnOf_encode_tolin]
    obtain ⟨h3, h2, hcode⟩ := tcFn_bits false u
    exact ⟨h3, u, hcode, .inl ⟨h2, v, rfl⟩⟩
  · rw [fnOf_encode_fromlin]
    obtain ⟨h3, h2, hcode⟩ := tcFn_bits true u
    exact ⟨h3, u, hcode, .inr ⟨h2, r, rfl⟩⟩

/-- Settles O11: a legal word is its command's, so its group says the unit and its fn the command; a word that has a group or an fn
of no command decodes to none. -/
theorem groupAndFunctionSelectTheCommand : Obligations.GroupAndFunctionSelectTheCommand := by
  refine ⟨fun w h1 h2 => ?otherGroup, fun w hg hfn => ?crcFn, fun w hg hfn => ?tcFn, fun _ _ => crcCommand_of_decode,
    fun _ _ => tcCommand_of_decode, ?codesAndExamples⟩
  case otherGroup =>
    refine exists_illegal_of_forall_ne fun i hd => ?_
    rcases grpOf_of_decode hd with ⟨hg, -⟩ | ⟨hg, -⟩
    · exact h1 hg
    · exact h2 hg
  case crcFn =>
    refine exists_illegal_of_forall_ne fun i hd => ?_
    rcases crcCommand_of_decode hd hg with ⟨h, -⟩ | ⟨h, -⟩ | ⟨h, -⟩ <;> simp [h] at hfn
  case tcFn =>
    refine exists_illegal_of_forall_ne fun i hd => ?_
    obtain ⟨h3, -⟩ := tcCommand_of_decode hd hg
    exact Bool.false_ne_true (h3.symm.trans hfn)
  case codesAndExamples => decide

end Sys2Proof

/-! ### Illegal words, and the two PEC sequences (30_encoding R47, R51) -/

namespace Sys2Proof.Machine

open Sys2Proof.Claims

/-- Settles O5: the step raises ILL, and `illFlags` keeps the other two bits; the rule's words are evaluated. -/
theorem illegalWordSetsIllOnly : Obligations.IllegalWordSetsIllOnly := by
  refine ⟨fun s w rest why hp hd => ⟨_, step_of_illegal hp hd, ?_⟩, by decide⟩
  exact ⟨illBit_illFlags _, rangeBit_illFlags _, invalidBit_illFlags _, rfl, rfl, rfl⟩

/-- A run over presented commands begins with the first command's effect. -/
theorem runEvents_presents_cons (i : Instr) (is : List Instr) (s : State) :
    runEvents (presents (i :: is)) s = runEvents (presents is) (commandEffect i s) := by
  rw [presents, List.map_cons, runEvents_cons, eventEffect_of_legal (decode_encode i), presents]

/-- Folding bytes one command each folds them into CRC in order and writes nothing else. -/
theorem runEvents_folds (bs : List Byte) (s : State) :
    runEvents (presents (bs.map .crcFold)) s = .next { s with crc := bs.foldl crc8 s.crc, pending := [] } := by
  induction bs generalizing s with
  | nil => rfl
  | cons b bs ih =>
    rw [List.map_cons, runEvents_presents_cons, ih]
    rfl

/-- Seeding and then folding leaves the CRC of the bytes in CRC and writes nothing else (40_crc R67). -/
theorem runEvents_foldCommands (bs : List Byte) (s : State) :
    runEvents (presents (foldCommands bs)) s = .next { s with crc := crc8Msg bs, pending := [] } := by
  rw [foldCommands, runEvents_presents_cons, runEvents_folds]
  rfl

/-- Settles O26: each pseudo-command is CRC.INIT and a CRC.FOLD for each byte of its sequence. -/
theorem pecSequencesLeaveThePecInCrc : Obligations.PecSequencesLeaveThePecInCrc :=
  ⟨fun _ _ _ _ s => ⟨rfl, runEvents_foldCommands _ s⟩, fun _ _ _ _ s => ⟨rfl, runEvents_foldCommands _ s⟩⟩

end Sys2Proof.Machine

/-! ### The bit step by its bits, and the commands that write CRC a constant (40_crc R61, R68, R70) -/

namespace Sys2Proof.Machine

/-- Each bit of the bit step: the bit below it, and the feedback where the generator has a term (40_crc R61). -/
theorem getLsbD_crcBit (c : Byte) (m : Bool) {k : Nat} (hk : k < 8) :
    (crcBit c m).getLsbD k =
      ((decide (0 < k) && c.getLsbD (k - 1)) ^^ ((c.getLsbD 7 ^^ m) && Config.crcFeedback.getLsbD k)) := by
  have hshift : (c <<< 1).getLsbD k = (decide (0 < k) && c.getLsbD (k - 1)) := by
    simp only [BitVec.getLsbD_shiftLeft, hk, decide_true, Bool.true_and, Nat.lt_one_iff, Nat.pos_iff_ne_zero, decide_not]
  rw [crcBit]
  split
  · next hfb => simp only [BitVec.getLsbD_xor, hshift, hfb, Bool.true_and]
  · next hfb => simp only [hshift, hfb, Bool.false_and, Bool.xor_false]

/-- Settles O13: the bits of the feedback constant put into the equation of one bit; the example is evaluated. -/
theorem bitStepEquations : Obligations.BitStepEquations := by
  refine ⟨fun c m => ⟨?_, ?_, ?_, ?_, ?_, ?_, ?_, ?_⟩, by decide⟩ <;>
    rw [getLsbD_crcBit c m (by decide)] <;> simp [Config.crcFeedback]

/-- Settles O14: the command's one update, and the word its encoder gives. -/
theorem crcInitSeedsTheCrc : Obligations.CrcInitSeedsTheCrc :=
  ⟨exec_eq .crcInit, decode_encode .crcInit⟩

/-- Settles O16: as for CRC.INIT, whose seed is the byte 0; the examples are evaluated. -/
theorem crcLoadWritesItsByte : Obligations.CrcLoadWritesItsByte :=
  ⟨fun s b => exec_eq (.crcLoad b) s, fun b => decode_encode (.crcLoad b), fun _ => rfl, by decide⟩

end Sys2Proof.Machine

/-! ### The fold is linear, and depends on `prev XOR byte` only (40_crc R63 to R65) -/

namespace Sys2Proof.Machine

open Sys2Proof.Claims

/-- The fold is linear over GF(2), as its eight bit steps are. -/
theorem crc8_xor (p p' b b' : Byte) : crc8 (p ^^^ p') (b ^^^ b') = crc8 p b ^^^ crc8 p' b' := by
  simp only [crc8_steps, BitVec.getLsbD_xor, crcBit_xor]

/-- A message bit equal to the register's top bit is shifted out with it and leaves no feedback. -/
theorem crcBit_topBit (c : Byte) : crcBit c (c.getLsbD 7) = c <<< 1 := by
  simp [crcBit]

/-- Folding a byte into itself clears the register: each step shifts one bit out. -/
theorem crc8_self (b : Byte) : crc8 b b = 0x00#8 := by
  have hstep : ∀ k, k < 8 → crcBit (b <<< k) (b.getLsbD (7 - k)) = b <<< (k + 1) := fun k hk => by
    have htop : b.getLsbD (7 - k) = (b <<< k).getLsbD 7 := by
      rw [BitVec.getLsbD_shiftLeft, decide_eq_false (show ¬ 7 < k by omega)]
      rfl
    rw [htop, crcBit_topBit, BitVec.shiftLeft_add]
  calc crc8 b b
      = crcBit (crcBit (crcBit (crcBit (crcBit (crcBit (crcBit (crcBit (b <<< 0) (b.getLsbD 7)) (b.getLsbD 6)) (b.getLsbD 5))
          (b.getLsbD 4)) (b.getLsbD 3)) (b.getLsbD 2)) (b.getLsbD 1)) (b.getLsbD 0) := by
        rw [BitVec.shiftLeft_zero, crc8_steps]
    _ = b <<< 8 := by
        rw [hstep 0 (by decide), hstep 1 (by decide), hstep 2 (by decide), hstep 3 (by decide), hstep 4 (by decide),
          hstep 5 (by decide), hstep 6 (by decide), hstep 7 (by decide)]
    _ = 0x00#8 := BitVec.shiftLeft_eq_zero (by decide)

/-- The byte may be put into the register first, and zero bits folded. -/
theorem crc8_eq_fold_zero (p b : Byte) : crc8 p b = crc8 (p ^^^ b) 0x00#8 := by
  have h := crc8_xor (p ^^^ b) b 0x00#8 b
  rwa [BitVec.xor_assoc, BitVec.xor_self, BitVec.xor_zero, BitVec.zero_xor, crc8_self, BitVec.xor_zero] at h

/-- The fold depends on `prev XOR byte` only (40_crc R64). -/
theorem crc8_congr_xor {p b p' b' : Byte} (h : p ^^^ b = p' ^^^ b') : crc8 p b = crc8 p' b' := by
  rw [crc8_eq_fold_zero p b, crc8_eq_fold_zero p' b', h]

/-- The XOR-first form shifts as the fold of a zero byte does. -/
theorem crc8XorFirst_eq_fold_zero (p b : Byte) : crc8XorFirst p b = crc8 (p ^^^ b) 0x00#8 := by
  have hstep : ∀ c : Byte, crcBit c false = if c.getLsbD 7 then (c <<< 1) ^^^ 0x07#8 else c <<< 1 := fun c => by
    simp [crcBit, Config.crcFeedback]
  simp only [crc8_steps, BitVec.getLsbD_zero, hstep]
  rfl

/-- Settles O17: both forms are the fold of a zero byte into `prev XOR byte`. -/
theorem foldEqualsXorFirstForm : Obligations.FoldEqualsXorFirstForm := by
  have hform : crc8 = crc8XorFirst := funext₂ fun p b => by rw [crc8_eq_fold_zero, crc8XorFirst_eq_fold_zero]
  exact ⟨fun p b => congrFun₂ hform p b, fun bs c => by rw [hform]⟩

/-- The low `n + 1` bits of a byte are its low `n` bits and bit `n`. -/
theorem lowBits_succ (b : Byte) (n : Nat) :
    (b.setWidth (n + 1)).setWidth 8 = (b.setWidth n).setWidth 8 ^^^ (b &&& BitVec.twoPow 8 n) := by
  refine BitVec.eq_of_getLsbD_eq fun k hk => ?_
  simp only [BitVec.getLsbD_xor, BitVec.getLsbD_and, BitVec.getLsbD_setWidth, BitVec.getLsbD_twoPow, hk]
  rcases lt_trichotomy k n with h | rfl | h
  · simp [h, h.ne', h.trans (Nat.lt_succ_self n)]
  · simp [hk]
  · simp [h.ne, h.not_gt, Nat.not_lt.mpr h]

/-- Two maps from bytes to bits that are linear over GF(2) are equal when they agree on every byte with one bit. -/
theorem eq_of_linear_of_eq_on_singleBits {f g : Byte → Bool} (hf : ∀ a b, f (a ^^^ b) = (f a ^^ f b))
    (hg : ∀ a b, g (a ^^^ b) = (g a ^^ g b)) (hbit : ∀ i < 8, f (BitVec.twoPow 8 i) = g (BitVec.twoPow 8 i)) (b : Byte) :
    f b = g b := by
  have hzero : f 0x00#8 = g 0x00#8 := by
    have hf0 : f 0x00#8 = false := by simpa using hf 0 0
    have hg0 : g 0x00#8 = false := by simpa using hg 0 0
    rw [hf0, hg0]
  have hlow : ∀ n ≤ 8, f ((b.setWidth n).setWidth 8) = g ((b.setWidth n).setWidth 8) := fun n hn => by
    induction n with
    | zero => rwa [BitVec.eq_nil (b.setWidth 0)]
    | succ n ih =>
      rw [lowBits_succ, BitVec.and_twoPow, hf, hg, ih (by omega)]
      split
      · rw [hbit n (by omega)]
      · rw [hzero]
  simpa using hlow 8 le_rfl

/-- The XOR of the listed bits is linear over GF(2). -/
theorem xorOfBits_xor (a b : Byte) (is : List Nat) : xorOfBits (a ^^^ b) is = (xorOfBits a is ^^ xorOfBits b is) := by
  have hfold : ∀ u v : Bool, is.foldl (fun w i => w ^^ (a ^^^ b).getLsbD i) (u ^^ v) =
      (is.foldl (fun w i => w ^^ a.getLsbD i) u ^^ is.foldl (fun w i => w ^^ b.getLsbD i) v) := by
    induction is with
    | nil => exact fun _ _ => rfl
    | cons i is ih =>
      intro u v
      rw [List.foldl_cons, List.foldl_cons, List.foldl_cons, ← ih, BitVec.getLsbD_xor, Bool.xor_assoc, Bool.xor_assoc,
        Bool.xor_left_comm v]
  exact hfold false false

/-- Settles O18: both sides of each equation are linear, so they are compared on the eight bytes with one bit. -/
theorem foldMeetsTheEightEquations : Obligations.FoldMeetsTheEightEquations := by
  refine ⟨fun p b row hrow => ?_, fun _ _ _ _ => crc8_congr_xor⟩
  have hbits : ∀ row ∈ crc8Taps, ∀ i < 8,
      (crc8 (BitVec.twoPow 8 i) 0x00#8).getLsbD row.1 = xorOfBits (BitVec.twoPow 8 i) row.2 := by decide
  rw [crc8_eq_fold_zero]
  refine eq_of_linear_of_eq_on_singleBits (f := fun d => (crc8 d 0x00#8).getLsbD row.1)
    (g := fun d => xorOfBits d row.2) (fun c d => ?_) (fun c d => xorOfBits_xor c d row.2) (hbits row hrow) (p ^^^ b)
  simp only [← BitVec.getLsbD_xor, ← crc8_xor, BitVec.xor_self]

/-- Each of the sixteen printed rows lists the folds of its bytes from 0 (95_test_vectors 2.1). -/
theorem crcTable_row (r : Fin 16) : (crcTable.drop (16 * r.val)).take 16 =
    (List.range 16).map fun d => crc8 0x00#8 (BitVec.ofNat 8 (16 * r.val + d)) := by
  revert r; decide

/-- The table entry of a byte is its fold from 0: the high digit says the row, the low digit the place in it. -/
theorem crcTable_getElem? (d : Byte) : crcTable[d.toNat]? = some (crc8 0x00#8 d) := by
  have hlow : d.toNat % 16 < 16 := Nat.mod_lt _ (by decide)
  have hrow := congrArg (·[d.toNat % 16]?) (crcTable_row ⟨d.toNat / 16, by omega⟩)
  simpa only [List.getElem?_take_of_lt hlow, List.getElem?_drop, List.getElem?_map, List.getElem?_range hlow, Nat.div_add_mod,
    Option.map_some, BitVec.ofNat_toNat, BitVec.setWidth_eq] using hrow

/-- The table lookup is the fold (40_crc R65). -/
theorem crcTable_getElem?_xor (p b : Byte) : crcTable[(p ^^^ b).toNat]? = some (crc8 p b) := by
  rw [crcTable_getElem?, crc8_congr_xor (BitVec.zero_xor)]

/-- Settles O19: the table is that of the folds from 0, and the fold depends on `prev XOR byte` only. -/
theorem foldIsTableLookup : Obligations.FoldIsTableLookup := by
  have hlookup : crc8 = fun c b => crcTable.getD (c ^^^ b).toNat 0x00#8 := funext₂ fun p b => by
    rw [List.getD_eq_getElem?_getD, crcTable_getElem?_xor, Option.getD_some]
  exact ⟨crcTable_getElem?_xor, fun bs => by rw [← hlookup]; rfl, fun a b => crc8_xor 0 0 a b, by decide⟩

end Sys2Proof.Machine

/-! ### The CRC as a remainder by G(x) over GF(2) (40_crc R66) -/

namespace Sys2Proof.Machine

open Sys2Proof.Claims

@[simp] theorem bytePoly_zero : bytePoly 0x00#8 = 0 := by simp [bytePoly]

/-- XOR of bytes is addition of polynomials. -/
theorem bytePoly_xor (a b : Byte) : bytePoly (a ^^^ b) = bytePoly a + bytePoly b := by
  rw [bytePoly, bytePoly, bytePoly, ← Finset.sum_add_distrib]
  refine Finset.sum_congr rfl fun i _ => ?_
  rw [BitVec.getLsbD_xor]
  cases a.getLsbD i <;> cases b.getLsbD i <;> simp [CharTwo.add_self_eq_zero]

/-- The feedback constant is G(x) without its leading term (40_crc R61). -/
theorem generator_eq : generator = Polynomial.X ^ 8 + bytePoly Config.crcFeedback := by
  have hbits : bytePoly Config.crcFeedback = Polynomial.X ^ 2 + Polynomial.X ^ 1 + 1 := by
    simp [bytePoly, Finset.sum_range_succ, Config.crcFeedback, add_comm, add_assoc]
  rw [hbits, generator, add_assoc, add_assoc, add_assoc]

/-- The polynomial of a byte has a lower degree than G(x). -/
theorem degree_bytePoly_lt (b : Byte) : (bytePoly b).degree < (8 : Nat) := by
  rw [← Polynomial.mem_degreeLT]
  refine Submodule.sum_mem _ fun i hi => ?_
  split
  · rw [Polynomial.mem_degreeLT, Polynomial.degree_X_pow]
    exact_mod_cast Finset.mem_range.mp hi
  · exact Submodule.zero_mem _

theorem generator_monic : generator.Monic := by
  rw [generator_eq]
  exact Polynomial.monic_X_pow_add (degree_bytePoly_lt _)

theorem degree_generator : generator.degree = (8 : Nat) := by
  have hlead : (Polynomial.X ^ 8 : Polynomial (ZMod 2)).degree = (8 : Nat) := Polynomial.degree_X_pow 8
  rw [generator_eq, Polynomial.degree_add_eq_left_of_degree_lt (hlead ▸ degree_bytePoly_lt _), hlead]

/-- A byte congruent to a polynomial modulo G(x) is its remainder. -/
theorem bytePoly_eq_modByMonic {b : Byte} {q : Polynomial (ZMod 2)}
    (h : AdjoinRoot.mk generator (bytePoly b) = AdjoinRoot.mk generator q) : bytePoly b = Polynomial.modByMonic q generator := by
  have hself : Polynomial.modByMonic (bytePoly b) generator = bytePoly b :=
    (Polynomial.modByMonic_eq_self_iff generator_monic).mpr (degree_generator ▸ degree_bytePoly_lt b)
  rw [← hself]
  exact Polynomial.modByMonic_eq_of_dvd_sub generator_monic (AdjoinRoot.mk_eq_mk.mp h)

/-- Shifting a byte multiplies its polynomial by x and drops the term x^8. -/
theorem bytePoly_shiftLeft_one (c : Byte) :
    bytePoly (c <<< 1) = Polynomial.X * bytePoly c + if c.getLsbD 7 then Polynomial.X ^ 8 else 0 := by
  have hterm : ∀ i < 7, (if (c <<< 1).getLsbD (i + 1) then Polynomial.X ^ (i + 1) else 0 : Polynomial (ZMod 2)) =
      Polynomial.X * if c.getLsbD i then Polynomial.X ^ i else 0 := fun i hi => by
    rw [BitVec.getLsbD_shiftLeft, mul_ite, mul_zero, ← pow_succ']
    simp [show i + 1 < 8 by omega]
  have hlow : bytePoly (c <<< 1) =
      ∑ i ∈ Finset.range 7, Polynomial.X * if c.getLsbD i then Polynomial.X ^ i else 0 := by
    rw [bytePoly, Finset.sum_range_succ', Finset.sum_congr rfl fun i hi => hterm i (Finset.mem_range.mp hi)]
    simp
  have htop : Polynomial.X * bytePoly c =
      bytePoly (c <<< 1) + if c.getLsbD 7 then Polynomial.X ^ 8 else 0 := by
    rw [hlow, bytePoly, Finset.sum_range_succ, mul_add, Finset.mul_sum, mul_ite, mul_zero, ← pow_succ']
  rw [htop, add_assoc, CharTwo.add_self_eq_zero, add_zero]

/-- Modulo G(x) a bit step with message bit 0 multiplies by x: the feedback stands for x^8. -/
theorem mk_bytePoly_crcBit_false (c : Byte) :
    AdjoinRoot.mk generator (bytePoly (crcBit c false)) = AdjoinRoot.mk generator (Polynomial.X * bytePoly c) := by
  have hstep : bytePoly (crcBit c false) = Polynomial.X * bytePoly c + if c.getLsbD 7 then generator else 0 := by
    rw [crcBit, Bool.xor_false]
    split
    · next htop => rw [bytePoly_xor, bytePoly_shiftLeft_one, if_pos htop, generator_eq, add_assoc]
    · next htop => rw [bytePoly_shiftLeft_one, if_neg htop]
  rw [hstep, map_add, apply_ite (AdjoinRoot.mk generator), AdjoinRoot.mk_self, map_zero, ite_self, add_zero]

/-- Modulo G(x) the fold is `(prev(x) + byte(x)) x^8`. -/
theorem mk_bytePoly_crc8 (p b : Byte) :
    AdjoinRoot.mk generator (bytePoly (crc8 p b)) =
      AdjoinRoot.mk generator ((bytePoly p + bytePoly b) * Polynomial.X ^ 8) := by
  rw [crc8_eq_fold_zero, crc8_steps]
  simp only [BitVec.getLsbD_zero, mk_bytePoly_crcBit_false, map_mul, map_pow, ← bytePoly_xor]
  ring

/-- One more byte in the message polynomial (40_crc R66). -/
theorem messagePoly_append_byte (bs : List Byte) (b : Byte) :
    messagePoly (bs ++ [b]) = messagePoly bs * Polynomial.X ^ 8 + bytePoly b := by
  simp [messagePoly]

/-- Modulo G(x) the CRC of a message is `M(x) x^8`. -/
theorem mk_bytePoly_crc8Msg (bs : List Byte) :
    AdjoinRoot.mk generator (bytePoly (crc8Msg bs)) = AdjoinRoot.mk generator (messagePoly bs * Polynomial.X ^ 8) := by
  induction bs using List.reverseRecOn with
  | nil => simp [messagePoly]
  | append_singleton bs b ih =>
    rw [crc8Msg_append_byte, mk_bytePoly_crc8, map_mul, map_add, ih, ← map_add, ← map_mul, messagePoly_append_byte]

/-- Settles O20: a byte has a lower degree than G(x), so the congruences modulo G(x) give the remainders. -/
theorem crcIsThePolynomialRemainder : Obligations.CrcIsThePolynomialRemainder :=
  ⟨fun p b => bytePoly_eq_modByMonic (mk_bytePoly_crc8 p b), fun bs => bytePoly_eq_modByMonic (mk_bytePoly_crc8Msg bs)⟩

end Sys2Proof.Machine

/-! ### What each TC command writes, over the rationals (41_tempconv R82 to R100) -/

namespace Sys2Proof.Machine

open Sys2Proof.Claims

/-- The integer evaluation of TL is TL of the operand's exact value (41_tempconv R83; log 5). -/
theorem linearOf_eq_exactTL (w : W32) (u : TUnit) : linearOf (f32Units w) u = exactTL (f32val w) u := by
  have hu : (unitsPerOne : Rat) ≠ 0 := by norm_num [unitsPerOne]
  rw [f32val_eq_units]
  cases u with
  | raw => exact tzDiv_eq_tz _ (by decide)
  | kelvin =>
    refine (rhaDiv_eq_rha _ (by decide)).trans (congrArg rha ?_)
    push_cast [Config.countsPerKelvin]
    exact mul_div_assoc _ _ _
  | celsius | fahrenheit =>
    refine (rhaDiv_eq_rha _ (by decide)).trans (congrArg rha ?_)
    push_cast [Config.countsPerKelvin, Config.celsiusOffsetHundredths]
    field_simp
    ring

/-- The helper of the TOLIN commands is the rule over the rationals, on every operand word (41_tempconv R85, R86). -/
theorem tolinRule_eq_tolin (w : W32) (u : TUnit) :
    tolinRule w u = ((tolin w u).res, (tolin w u).range, (tolin w u).invalid) := by
  unfold tolinRule tolin
  split
  · rfl
  · split
    · have hsign : w.getLsbD 31 = f32Sign w := rfl
      rw [hsign]
      cases f32Sign w <;> rfl
    · simp only [linearOf_eq_exactTL]; rfl

/-- One write of a TC result has the frame of a TC command (41_tempconv R96). -/
theorem tcWrote_setTc (s : State) (v : W32) (range invalid : Bool) :
    TcWrote s (s.setTc v range invalid) v range invalid where
  res := rfl
  range := rangeBit_tcFlags _ _ _
  invalid := invalidBit_tcFlags _ _ _
  ill := illBit_tcFlags _ _ _
  crc := rfl
  pending := rfl

/-- A TOLIN writes what the rule gives, and nothing else. -/
theorem exists_tcWrote_tolin (u : TUnit) (s : State) (w : W32) : ∃ t, exec (.tolin u w) s = .next t ∧
    TcWrote s t (tolinRule w u).1 (tolinRule w u).2.1 (tolinRule w u).2.2 := by
  refine ⟨_, exec_tolin u w s, ?_⟩
  rw [tolinRule_eq_tolin]
  exact tcWrote_setTc s _ _ _

/-- A FROMLIN writes one word and no flag, and nothing else, and the word is the one rounding of FL, whatever form `q` FL is
given in (41_tempconv R87). -/
theorem exists_tcWrote_fromlin (u : TUnit) (s : State) (r : Half) {q : Rat} (hq : exactFL r.toInt u = q) :
    ∃ t w, exec (.fromlin u r) s = .next t ∧ TcWrote s t w false false ∧
      IsF32Rne (exactFL r.toInt u) w ∧ exactFL r.toInt u = q :=
  ⟨_, _, exec_fromlin u r s, tcWrote_setTc s _ _ _, isF32Rne_fromlin r u, hq⟩

/-- Settles O28: the rule of every TOLIN, and TL's Celsius formula multiplied out. -/
theorem tolinCelsiusConvertsExactly : Obligations.TolinCelsiusConvertsExactly :=
  ⟨exists_tcWrote_tolin .celsius, fun w => decode_encode (.tcTolinC w), fun v => congrArg rha (by ring)⟩

/-- Settles O29: the rule of every TOLIN, and TL's Fahrenheit formula over one denominator. -/
theorem tolinFahrenheitConvertsExactly : Obligations.TolinFahrenheitConvertsExactly :=
  ⟨exists_tcWrote_tolin .fahrenheit, fun w => decode_encode (.tcTolinF w), fun v => congrArg rha (by ring)⟩

/-- Settles O30: the rule of every TOLIN. -/
theorem tolinKelvinConvertsExactly : Obligations.TolinKelvinConvertsExactly :=
  ⟨exists_tcWrote_tolin .kelvin, fun w => decode_encode (.tcTolinK w)⟩

/-- Settles O31: the rule of every TOLIN. -/
theorem tolinRawTruncates : Obligations.TolinRawTruncates :=
  ⟨exists_tcWrote_tolin .raw, fun w => decode_encode (.tcTolinR w)⟩

/-- Settles O32: the one rounding of every FROMLIN, and FL's Celsius formula over one denominator. -/
theorem fromlinCelsiusRoundsOnce : Obligations.FromlinCelsiusRoundsOnce :=
  ⟨fun s r => exists_tcWrote_fromlin .celsius s r (by simp only [exactFL]; ring), fun r => decode_encode (.tcFromlinC r)⟩

/-- Settles O33: the one rounding of every FROMLIN, and FL's Fahrenheit formula over one denominator. -/
theorem fromlinFahrenheitRoundsOnce : Obligations.FromlinFahrenheitRoundsOnce :=
  ⟨fun s r => exists_tcWrote_fromlin .fahrenheit s r (by simp only [exactFL]; ring), fun r => decode_encode (.tcFromlinF r)⟩

/-- Settles O34: the one rounding of every FROMLIN, and FL's kelvin formula over the denominator 1000. -/
theorem fromlinKelvinRoundsOnce : Obligations.FromlinKelvinRoundsOnce :=
  ⟨fun s r => exists_tcWrote_fromlin .kelvin s r (by simp only [exactFL]; ring), fun r => decode_encode (.tcFromlinK r)⟩

/-- A significand of at most 24 bits and a number of exponent steps give the magnitude of some field. -/
theorem exists_fieldUnits_eq {m : Nat} (hm : m < 2 ^ 24) (k : Nat) :
    ∃ b < (k + 2) * 2 ^ 23, fieldUnits b = m * 2 ^ k := by
  induction k generalizing m with
  | zero => exact ⟨m, by omega, by simpa using fieldUnits_step (k := 0) hm.le (.inl rfl)⟩
  | succ k ih =>
    rcases Nat.lt_or_ge m (2 ^ 23) with hlow | hhigh
    · obtain ⟨b, hb, heq⟩ := ih (m := 2 * m) (by omega)
      exact ⟨b, hb.trans_le (Nat.mul_le_mul_right _ (by omega)), by rw [heq]; ring⟩
    · exact ⟨(k + 1) * 2 ^ 23 + m, by omega, fieldUnits_step hm.le (.inr hhigh)⟩

/-- A number of steps of `2^(-j)`, counted in units of 2^(-149). -/
theorem mul_two_pow_div_unitsPerOne {j : Nat} (hj : j ≤ 149) (x : Rat) : x * 2 ^ (149 - j) / unitsPerOne = x / 2 ^ j := by
  have hone : (unitsPerOne : Rat) = 2 ^ (149 - j) * 2 ^ j := by
    rw [← pow_add, Nat.sub_add_cancel hj]
    norm_num [unitsPerOne]
  rw [hone, mul_comm x, mul_div_mul_left _ _ (by positivity)]

/-- An integer of at most 24 bits over a power of two is the value of a finite word. -/
theorem exists_f32val_eq {n : Int} (hn : n.natAbs < 2 ^ 24) {j : Nat} (hj : j ≤ 149) :
    ∃ w, isFinite w = true ∧ f32val w = (n : Rat) / 2 ^ j := by
  obtain ⟨b, hb, heq⟩ := exists_fieldUnits_eq hn (149 - j)
  have hfin : b < 255 * 2 ^ 23 := hb.trans_le (Nat.mul_le_mul_right _ (by omega))
  have hfield : f32Field (f32Word (decide (n < 0)) b) = b := f32Field_f32Word _ (by omega)
  refine ⟨f32Word (decide (n < 0)) b, (isFinite_iff _).2 (by rwa [hfield]), ?_⟩
  have hunits : f32Units (f32Word (decide (n < 0)) b) = n * 2 ^ (149 - j) := by
    rw [f32Units_eq, hfield, heq, f32Sign_f32Word _ (by omega)]
    simp only [decide_eq_true_eq]
    split <;> push_cast
    · next h => rw [abs_of_neg h]; ring
    · next h => rw [abs_of_nonneg (not_lt.1 h)]
  rw [f32val_eq_units, hunits]
  push_cast
  exact mul_two_pow_div_unitsPerOne hj n

/-- Where the value is that of some finite word, the one rounding is exact. -/
theorem IsF32Rne.f32val_eq {q : Rat} {w w' : W32} (h : IsF32Rne q w) (hfin : isFinite w' = true) (hval : f32val w' = q) :
    f32val w = q := by
  have hle := h.nearest w' hfin
  rw [hval, sub_self, abs_zero] at hle
  exact sub_eq_zero.1 (abs_nonpos_iff.1 hle)

/-- Settles O35: the one rounding of every FROMLIN, exact because a count has at most 24 bits. -/
theorem fromlinRawIsExact : Obligations.FromlinRawIsExact := by
  refine ⟨fun s r => ?_, fun r => decode_encode (.tcFromlinR r)⟩
  obtain ⟨t, w, hexec, hwrote, hrne, -⟩ := exists_tcWrote_fromlin .raw s r rfl
  have hlow := r.le_toInt
  have hhigh := r.toInt_lt
  obtain ⟨w', hfin, hval⟩ := exists_f32val_eq (n := r.toInt) (by omega) (Nat.zero_le 149)
  exact ⟨t, w, hexec, hwrote, hrne, hrne.f32val_eq hfin (by rw [hval, pow_zero, div_one, exactFL])⟩

/-- Settles O39: linear arithmetic in the count for each unit; no multiple of 20 is nearer than 10 to 273150, and none of 36 is
nearer than 14 to 459670. -/
theorem thousandthsFormsOfFromlin : Obligations.ThousandthsFormsOfFromlin := by
  intro raw hlow hhigh
  refine ⟨fun u => ?forms, rfl, rfl, rfl, rfl, ?_⟩
  case forms => rw [← thousandths_div, Nat.cast_ofNat]
  simp only [thousandths, le_abs]
  refine ⟨by omega, by omega, by omega, by omega, fun u => ?zero, fun hraw => by omega, by omega, by omega⟩
  case zero =>
    cases u with
    | kelvin | raw => simp
    | celsius | fahrenheit => simp only [reduceCtorEq, or_self, and_false, iff_false]; omega

end Sys2Proof.Machine

/-! ### The clamp, its thresholds, and the flags of the TC commands (41_tempconv R84, R85, R96, R100) -/

namespace Sys2Proof.Machine

open Sys2Proof.Claims

/-- The clamp as a minimum and a maximum (41_tempconv R85). -/
theorem sat16_eq_max_min (i : Int) : sat16 i = max (-32768) (min 32767 i) := by
  unfold sat16
  split
  · omega
  · split <;> omega

/-- The clamp changes exactly what does not fit `i16`. -/
theorem sat16_ne_iff (i : Int) : sat16 i ≠ i ↔ 32768 ≤ i ∨ i ≤ -32769 := by
  rw [sat16_eq_max_min]
  omega

/-- Rounding of the magnitude: its floor after `c` is added, with the sign put back. -/
def magFloor (c q : Rat) : Int := if 0 ≤ q then ⌊q + c⌋ else -⌊-q + c⌋

theorem rha_eq_magFloor (q : Rat) : rha q = magFloor (1 / 2) q := rfl

theorem tz_eq_magFloor (q : Rat) : tz q = magFloor 0 q := by simp only [tz, magFloor, add_zero]

theorem magFloor_neg {c : Rat} (hc : 0 ≤ c) (hc1 : c < 1) (q : Rat) : magFloor c (-q) = -magFloor c q := by
  unfold magFloor
  rcases lt_trichotomy q 0 with hq | rfl | hq
  · rw [if_pos (by linarith), if_neg (by linarith), neg_neg]
  · have hfloor : ⌊c⌋ = 0 := Int.floor_eq_zero_iff.2 ⟨hc, hc1⟩
    simp [hfloor]
  · rw [if_neg (by linarith), if_pos hq.le, neg_neg]

/-- A positive integer is reached from `c` below it. -/
theorem le_magFloor_iff {c : Rat} (hc : 0 ≤ c) (hc1 : c < 1) {i : Int} (hi : 0 < i) (q : Rat) :
    i ≤ magFloor c q ↔ (i : Rat) - c ≤ q := by
  have hi' : (1 : Rat) ≤ i := by exact_mod_cast hi
  unfold magFloor
  split
  · rw [Int.le_floor, sub_le_iff_le_add]
  · next hq =>
    have hfloor : 0 ≤ ⌊-q + c⌋ := Int.floor_nonneg.2 (by linarith)
    exact iff_of_false (by omega) (by linarith)

/-- Where the clamp changes a rounded value. -/
theorem sat16_magFloor_ne_iff {c : Rat} (hc : 0 ≤ c) (hc1 : c < 1) (q : Rat) :
    sat16 (magFloor c q) ≠ magFloor c q ↔ 32768 - c ≤ q ∨ q ≤ -(32769 - c) := by
  have hlow : magFloor c q ≤ -32769 ↔ 32769 ≤ magFloor c (-q) := by rw [magFloor_neg hc hc1]; omega
  rw [sat16_ne_iff, hlow, le_magFloor_iff hc hc1 (by decide), le_magFloor_iff hc hc1 (by decide), Int.cast_ofNat,
    Int.cast_ofNat, le_neg (a := q)]

/-- Where the clamp changes a value rounded half away from zero: both thresholds are ties, and both are out of range. -/
theorem sat16_rha_ne_iff (q : Rat) : sat16 (rha q) ≠ rha q ↔ 65535 / 2 ≤ q ∨ q ≤ -(65537 / 2) := by
  rw [rha_eq_magFloor, sat16_magFloor_ne_iff (by norm_num) (by norm_num)]
  norm_num

/-- Where the clamp changes a truncated value. -/
theorem sat16_tz_ne_iff (q : Rat) : sat16 (tz q) ≠ tz q ↔ 32768 ≤ q ∨ q ≤ -32769 := by
  rw [tz_eq_magFloor, sat16_magFloor_ne_iff le_rfl one_pos, sub_zero, sub_zero]

/-- RES as an integer is the count written (10_state R12). -/
theorem toInt_resOfCount {i : Int} (hlow : -32768 ≤ i) (hhigh : i ≤ 32767) : (resOfCount i).toInt = i := by
  rw [resOfCount, BitVec.toInt_signExtend_of_le (by decide), BitVec.toInt_ofInt_eq_self (by decide) hlow (by omega)]

/-- A TOLIN of a finite word writes the clamp of TL, and RANGE where the clamp changed it (41_tempconv R85). -/
theorem tolin_of_isFinite_exact {w : W32} (hw : isFinite w = true) (u : TUnit) :
    tolin w u = ⟨resOfCount (sat16 (exactTL (f32val w) u)),
      decide (sat16 (exactTL (f32val w) u) ≠ exactTL (f32val w) u), false⟩ := by
  rw [tolin_of_isFinite hw, linearOf_eq_exactTL]

/-- What a TOLIN of a finite word leaves in RES and RANGE. -/
theorem exists_exec_tolin_of_isFinite {w : W32} (hw : isFinite w = true) (u : TUnit) (s : State) :
    ∃ t, exec (.tolin u w) s = .next t ∧ t.res = resOfCount (sat16 (exactTL (f32val w) u)) ∧
      t.range = decide (sat16 (exactTL (f32val w) u) ≠ exactTL (f32val w) u) := by
  refine ⟨_, exec_tolin u w s, ?_⟩
  rw [tolin_of_isFinite_exact hw]
  exact ⟨rfl, rangeBit_tcFlags _ _ _⟩

/-- Settles O40: the thresholds of the two roundings, carried through each unit's formula. -/
theorem rangeThresholds : Obligations.RangeThresholds := by
  refine ⟨sat16_eq_max_min, fun s w u hw => ?tolin, fun v => ?kelvin, fun v => ?celsius, fun v => ?fahrenheit, fun v => ?raw⟩
  case tolin =>
    obtain ⟨t, hexec, hres, hrange⟩ := exists_exec_tolin_of_isFinite hw u s
    obtain ⟨hlow, hhigh⟩ := sat16_range (exactTL (f32val w) u)
    exact ⟨t, hexec, by rw [hres, toInt_resOfCount hlow hhigh], by rw [hrange, decide_eq_true_iff]⟩
  case raw => exact sat16_tz_ne_iff v
  case kelvin | celsius | fahrenheit =>
    refine (sat16_rha_ne_iff _).trans (or_congr ⟨fun h => ?_, fun h => ?_⟩ ⟨fun h => ?_, fun h => ?_⟩) <;> linarith

/-- The rule never gives both flags. -/
theorem tolinRule_flags (w : W32) (u : TUnit) : ¬((tolinRule w u).2.1 = true ∧ (tolinRule w u).2.2 = true) := by
  rw [tolinRule_eq_tolin]
  exact tolin_flags w u

/-- The rule of a NaN (41_tempconv R86). -/
theorem tolinRule_of_isNan {w : W32} (hw : isNan w = true) (u : TUnit) : tolinRule w u = (0x00000000#32, false, true) := by
  rw [tolinRule, if_pos hw]

/-- Settles O42: a FROMLIN is one write without a flag, and a TOLIN one write of what the rule gives. -/
theorem tcCommandsWriteRangeAndInvalid : Obligations.TcCommandsWriteRangeAndInvalid := by
  refine ⟨fun u r => ⟨(fromlin r u).res, fun s => ?fromlin⟩, fun u w => ⟨(tolinRule w u).1, fun s => ?tolin⟩⟩
  case fromlin =>
    exact ⟨_, exec_fromlin u r s, rfl, rangeBit_tcFlags _ _ _, invalidBit_tcFlags _ _ _, illBit_tcFlags _ _ _, rfl⟩
  case tolin =>
    obtain ⟨t, hexec, hres, hrange, hinvalid, hill, hcrc, -⟩ := exists_tcWrote_tolin u s w
    have hrange' : t.range = (tolinRule w u).2.1 := hrange
    have hinvalid' : t.invalid = (tolinRule w u).2.2 := hinvalid
    refine ⟨t, hexec, hres, hrange', hinvalid', ?_, fun hw => ?_, hill, hcrc⟩
    · rw [hrange', hinvalid']
      exact tolinRule_flags w u
    · rw [hrange', hinvalid', tolinRule_of_isNan hw]
      exact ⟨rfl, rfl⟩

/-- Settles O44: a TC command is one write of values that depend on no state. -/
theorem tcResultDependsOnTheWordAlone : Obligations.TcResultDependsOnTheWordAlone := by
  intro i s s' hi
  obtain ⟨res, range, invalid, ht⟩ := commandEffect_of_tc hi
  exact ⟨_, _, exec_eq i s, exec_eq i s', by simp [ht, State.range, State.invalid]⟩

end Sys2Proof.Machine

/-! ### The Celsius round trip (41_tempconv R97) -/

namespace Sys2Proof.Machine

/-- The low half of RES is the count written (10_state R12). -/
theorem toInt_low_resOfCount {i : Int} (hlow : -32768 ≤ i) (hhigh : i ≤ 32767) :
    ((resOfCount i).extractLsb' 0 16).toInt = i := by
  have hlowHalf : (resOfCount i).extractLsb' 0 16 = BitVec.ofInt 16 i := by
    refine BitVec.eq_of_getLsbD_eq fun k hk => ?_
    rw [resOfCount, BitVec.getLsbD_extractLsb', BitVec.getLsbD_signExtend]
    simp [hk, show k < 32 by omega]
  rw [hlowHalf, BitVec.toInt_ofInt_eq_self (by decide) hlow (by omega)]

/-- A word at least `2^23` steps of `2^(-j)` large is a whole number of such steps. -/
theorem exists_f32val_eq_of_le {w : W32} {j : Nat} (hj : j ≤ 149) (hw : 2 ^ 23 / 2 ^ j ≤ f32val w) :
    ∃ m : Int, f32val w = (m : Rat) / 2 ^ j := by
  rcases fieldUnits_multiple_or_lt (149 - j) (f32Field w) with ⟨t, ht⟩ | ⟨-, hlt⟩
  · have hunits : f32Units w = (if f32Sign w then -t else t : Int) * 2 ^ (149 - j) := by
      rw [f32Units_eq, ht]
      split <;> push_cast <;> ring
    refine ⟨if f32Sign w then -t else t, ?_⟩
    rw [f32val_eq_units, hunits, Int.cast_mul, Int.cast_pow, Int.cast_ofNat, mul_two_pow_div_unitsPerOne hj]
  · have hunits : f32Units w < 2 ^ 23 * 2 ^ (149 - j) := by
      have hcast : (fieldUnits (f32Field w) : Int) < 2 ^ 23 * 2 ^ (149 - j) := by exact_mod_cast hlt
      rw [f32Units_eq]
      split <;> omega
    have hcast : (f32Units w : Rat) < 2 ^ 23 * 2 ^ (149 - j) := by exact_mod_cast hunits
    have hpos : (0 : Rat) < unitsPerOne := by norm_num [unitsPerOne]
    rw [← mul_two_pow_div_unitsPerOne hj, f32val_eq_units, div_le_div_iff_of_pos_right hpos] at hw
    exact absurd hcast hw.not_gt

/-- A whole or half degree from -50 °C becomes the count of the next hundredth (41_tempconv R97). -/
theorem exactTL_half_celsius {k : Int} (hk : -100 ≤ k) : exactTL ((k : Rat) / 2) .celsius = 25 * k + 13658 := by
  have hk' : (-100 : Rat) ≤ k := by exact_mod_cast hk
  have hsum : 50 * ((k : Rat) / 2 + 27315 / 100) + 1 / 2 = ((25 * k + 13658 : Int) : Rat) := by push_cast; ring
  rw [exactTL, rha, if_pos (by linarith), hsum, Int.floor_intCast]

/-- The count of a whole or half degree is a hundredth above it. -/
theorem exactFL_half_celsius (k : Int) : exactFL (25 * k + 13658) .celsius = (k : Rat) / 2 + 1 / 100 := by
  rw [exactFL]
  push_cast
  ring

/-- The one rounding is as near as any 24-bit integer over a power of two. -/
theorem IsF32Rne.abs_sub_le {q : Rat} {w : W32} (h : IsF32Rne q w) {n : Int} (hn : n.natAbs < 2 ^ 24) {j : Nat} (hj : j ≤ 149) :
    |f32val w - q| ≤ |(n : Rat) / 2 ^ j - q| := by
  obtain ⟨w', hfin, hval⟩ := exists_f32val_eq hn hj
  rw [← hval]
  exact h.nearest w' hfin

/-- From 128 °C on the words are 2^(-16) apart, and a hundredth is rounded down to 655 of those steps. -/
theorem f32val_rounded_half_of_le {k : Int} (hlow : 256 ≤ k) (hhigh : k ≤ 300) {w : W32}
    (hw : IsF32Rne ((k : Rat) / 2 + 1 / 100) w) : f32val w = (k : Rat) / 2 + 655 / 2 ^ 16 := by
  have hlow' : (256 : Rat) ≤ k := by exact_mod_cast hlow
  have hdist : ((k * 2 ^ 15 + 655 : Int) : Rat) / 2 ^ 16 - ((k : Rat) / 2 + 1 / 100) = -(36 / 100 / 2 ^ 16) := by
    push_cast
    ring
  have hnear := hw.abs_sub_le (n := k * 2 ^ 15 + 655) (j := 16) (by omega) (by decide)
  rw [hdist, abs_neg, abs_of_pos (by norm_num : (0 : Rat) < 36 / 100 / 2 ^ 16), abs_le] at hnear
  obtain ⟨m, hm⟩ := exists_f32val_eq_of_le (w := w) (j := 16) (by decide) (by linarith)
  rw [hm] at hnear ⊢
  have hm_gt : ((k * 2 ^ 15 + 654 : Int) : Rat) < m := by push_cast; linarith
  have hm_lt : (m : Rat) < ((k * 2 ^ 15 + 656 : Int) : Rat) := by push_cast; linarith
  have hsteps : m = k * 2 ^ 15 + 655 := by
    rw [Int.cast_lt] at hm_gt hm_lt
    omega
  rw [hsteps]
  push_cast
  ring

/-- How far the rounding of a hundredth above a whole or half degree lies from the degree: below 128 °C some word lies exactly
1311/2^17 above the degree, and at 64 °C it is the nearest. -/
theorem abs_rounded_half_sub_le {k : Int} (hlow : -100 ≤ k) (hhigh : k ≤ 300) {w : W32}
    (hw : IsF32Rne ((k : Rat) / 2 + 1 / 100) w) : |f32val w - (k : Rat) / 2| ≤ 1311 / 2 ^ 17 := by
  rcases lt_or_ge k 256 with hk | hk
  · have hdist : ((k * 2 ^ 16 + 1311 : Int) : Rat) / 2 ^ 17 - ((k : Rat) / 2 + 1 / 100) = 1311 / 2 ^ 17 - 1 / 100 := by
      push_cast
      ring
    have hnear := hw.abs_sub_le (n := k * 2 ^ 16 + 1311) (j := 17) (by omega) (by decide)
    rw [hdist, abs_of_pos (by norm_num : (0 : Rat) < 1311 / 2 ^ 17 - 1 / 100), abs_le] at hnear
    rw [abs_le]
    constructor <;> linarith
  · rw [f32val_rounded_half_of_le hk hhigh hw, add_sub_cancel_left, abs_of_pos] <;> norm_num

/-- The two commands of the round trip: the count in RES, then the one rounding of a hundredth above the degree. -/
theorem exists_celsius_roundTrip {k : Int} (hlow : -100 ≤ k) (hhigh : k ≤ 300) (s : State) {w : W32} (hw : isFinite w = true)
    (hval : f32val w = (k : Rat) / 2) :
    ∃ t t', exec (.tcTolinC w) s = .next t ∧ t.res.toInt = 25 * k + 13658 ∧
      exec (.tcFromlinC (t.res.extractLsb' 0 16)) t = .next t' ∧ IsF32Rne ((k : Rat) / 2 + 1 / 100) t'.res := by
  obtain ⟨t, hexec, hres, -⟩ := exists_exec_tolin_of_isFinite hw .celsius s
  rw [hval, exactTL_half_celsius hlow, sat16_of_fits (by omega) (by omega)] at hres
  refine ⟨t, _, hexec, ?_, exec_fromlin .celsius _ t, ?_⟩
  · rw [hres, toInt_resOfCount (by omega) (by omega)]
  · have hrne := isF32Rne_fromlin (t.res.extractLsb' 0 16) .celsius
    rw [hres, toInt_low_resOfCount (by omega) (by omega)] at hrne
    rw [← exactFL_half_celsius, hres]
    exact hrne

/-- Settles O45: the exact values by the formulas, the bound by where the words next to the result lie, and the worst case by its
word's three fields. -/
theorem celsiusRoundTripStaysWithinTolerance : Obligations.CelsiusRoundTripStaysWithinTolerance := by
  have hbound : (1311 / 2 ^ 17 : Rat) = 1000213623046875 / 100000000000000000 := by norm_num
  refine ⟨fun k hlow hhigh => ⟨?exact, exactTL_half_celsius hlow, ?fl, fun s w hw hval => ?roundTrip⟩, by decide, ?worst⟩
  case exact => simpa using exists_f32val_eq (n := k) (j := 1) (by omega) (by decide)
  case fl => exact exactFL_half_celsius k
  case roundTrip =>
    obtain ⟨t, t', htolin, hcount, hfromlin, hrne⟩ := exists_celsius_roundTrip hlow hhigh s hw hval
    exact ⟨t, t', htolin, hcount, hfromlin, hrne.finite, hbound ▸ abs_rounded_half_sub_le hlow hhigh hrne⟩
  case worst =>
    rw [f32val_normal (neg := false) (e := 132) (f := 0x51F) (by decide) (by decide) (by decide)]
    norm_num

end Sys2Proof.Machine

/-! ### The flags as conditions: at most one per command, and a sticky ILL that steers nothing (60_exceptions R113, R115) -/

namespace Sys2Proof.Machine

open Sys2Proof.Claims

@[simp] theorem State.setTc_range (s : State) (v : W32) (r i : Bool) : (s.setTc v r i).range = r := rangeBit_tcFlags _ _ _
@[simp] theorem State.setTc_invalid (s : State) (v : W32) (r i : Bool) : (s.setTc v r i).invalid = i := invalidBit_tcFlags _ _ _
@[simp] theorem State.raiseIll_range (s : State) : s.raiseIll.range = s.range := rangeBit_illFlags _
@[simp] theorem State.raiseIll_invalid (s : State) : s.raiseIll.invalid = s.invalid := invalidBit_illFlags _
@[simp] theorem State.raiseIll_ill (s : State) : s.raiseIll.ill = true := illBit_illFlags _
@[simp] theorem State.applyReset_ill (s : State) : s.applyReset.ill = false :=
  (by decide : State.reset.ill = false)

/-- No command touches ILL. -/
@[simp] theorem commandEffect_ill (i : Instr) (s : State) : (commandEffect i s).ill = s.ill :=
  (commandEffect_ill_pending i s).1

/-- A step that is not a reset keeps ILL = 1. -/
theorem step_keeps_ill {s t : State} (h : step s = .next t) (hs : s.ill = true) :
    t.ill = true ∨ ∃ rest, s.pending = .reset :: rest := by
  rcases step_cases h with ⟨-, rfl⟩ | ⟨rest, hp, -⟩ | ⟨w, rest, i, -, -, rfl⟩ | ⟨w, rest, why, -, -, rfl⟩
  · exact .inl hs
  · exact .inr ⟨rest, hp⟩
  · exact .inl ((commandEffect_ill i _).trans hs)
  · exact .inl (State.raiseIll_ill _)

/-- A step of a state with events pending has the first one's effect and leaves the rest. -/
theorem step_of_pending_cons {s : State} {e : HostEvent} {rest : List HostEvent} (hp : s.pending = e :: rest) :
    step s = .next { eventEffect s e with pending := rest } := by
  have hstep := step_of_cons s e rest
  rwa [← hp] at hstep

/-- Two states that differ in ILL at most. -/
structure EqExceptIll (s s' : State) : Prop where
  crc : s.crc = s'.crc
  res : s.res = s'.res
  range : s.range = s'.range
  invalid : s.invalid = s'.invalid
  pending : s.pending = s'.pending

namespace EqExceptIll

variable {s s' : State}

theorem with_pending (h : EqExceptIll s s') (evs : List HostEvent) :
    EqExceptIll { s with pending := evs } { s' with pending := evs } :=
  ⟨h.crc, h.res, h.range, h.invalid, rfl⟩

theorem applyReset (h : EqExceptIll s s') : EqExceptIll s.applyReset s'.applyReset :=
  ⟨rfl, rfl, rfl, rfl, h.pending⟩

theorem raiseIll (h : EqExceptIll s s') : EqExceptIll s.raiseIll s'.raiseIll :=
  ⟨h.crc, h.res, by simpa using h.range, by simpa using h.invalid, h.pending⟩

/-- No command reads ILL: it is one write of CRC from CRC, or one write of values that depend on no state. -/
theorem commandEffect (h : EqExceptIll s s') (i : Instr) : EqExceptIll (commandEffect i s) (commandEffect i s') := by
  cases hi : isTc i with
  | false =>
    obtain ⟨f, hf⟩ := commandEffect_of_crc hi
    rw [hf, hf]
    exact ⟨congrArg f h.crc, h.res, h.range, h.invalid, h.pending⟩
  | true =>
    obtain ⟨res, range, invalid, hf⟩ := commandEffect_of_tc hi
    rw [hf, hf]
    exact ⟨h.crc, rfl, by simp, by simp, h.pending⟩

/-- A host event has its effect whatever ILL is. -/
theorem eventEffect (h : EqExceptIll s s') (e : HostEvent) : EqExceptIll (eventEffect s e) (eventEffect s' e) := by
  cases e with
  | reset => exact h.applyReset
  | command w =>
    cases hd : decode w with
    | legal i =>
      rw [eventEffect_of_legal hd, eventEffect_of_legal hd]
      exact h.commandEffect i
    | illegal why =>
      rw [eventEffect_of_illegal hd, eventEffect_of_illegal hd]
      exact h.raiseIll

/-- ILL steers nothing: states that differ in ILL at most step to states that differ in ILL at most. -/
theorem exists_step (h : EqExceptIll s s') : ∃ t t', step s = .next t ∧ step s' = .next t' ∧ EqExceptIll t t' := by
  cases hp : s.pending with
  | nil => exact ⟨s, s', step_of_nil hp, step_of_nil (h.pending ▸ hp), h⟩
  | cons e rest =>
    exact ⟨_, _, step_of_pending_cons hp, step_of_pending_cons (h.pending ▸ hp), (h.eventEffect e).with_pending rest⟩

end EqExceptIll

/-- Settles O54: what a TC command writes depends on no state, only a reset clears ILL, and every event keeps `EqExceptIll`. -/
theorem illIsStickyAndSteersNothing : Obligations.IllIsStickyAndSteersNothing := by
  refine ⟨fun i s s' hi => ?tc, fun s t => step_keeps_ill,
    fun s rest hp => ⟨_, step_of_reset hp, State.applyReset_ill _⟩, fun s s' hcrc hres hrange hinvalid hpending => ?steersNothing⟩
  case tc =>
    obtain ⟨t, t', ht, ht', -, hrange, hinvalid⟩ := tcResultDependsOnTheWordAlone i s s' hi
    exact ⟨t, t', ht, ht', hrange, hinvalid⟩
  case steersNothing =>
    obtain ⟨t, t', ht, ht', heq⟩ := EqExceptIll.exists_step ⟨hcrc, hres, hrange, hinvalid, hpending⟩
    exact ⟨t, t', ht, ht', heq.crc, heq.res, heq.range, heq.invalid, heq.pending⟩

/-- A TOLIN of a NaN sets INVALID only (41_tempconv R86). -/
theorem tolin_of_isNan {w : W32} (hw : isNan w = true) (u : TUnit) : tolin w u = ⟨resOfCount 0, false, true⟩ := by
  rw [tolin, if_pos hw]

theorem isNan_eq_false_of_isInf {w : W32} (hw : isInf w = true) : isNan w = false := by
  rw [isInf, Bool.and_eq_true, beq_iff_eq, beq_iff_eq] at hw
  obtain ⟨-, hfrac⟩ := hw
  simp [isNan, hfrac]

/-- A TOLIN of an infinity saturates by its sign and sets RANGE only (41_tempconv R86). -/
theorem tolin_of_isInf {w : W32} (hw : isInf w = true) (u : TUnit) :
    tolin w u = ⟨resOfCount (if f32Sign w then -32768 else 32767), true, false⟩ := by
  simp [tolin, isNan_eq_false_of_isInf hw, hw]

theorem commandEffect_tolin (u : TUnit) (w : W32) (s : State) :
    commandEffect (.tolin u w) s = s.setTc (tolin w u).res (tolin w u).range (tolin w u).invalid :=
  Host.Outcome.next.inj ((exec_eq _ s).symm.trans (exec_tolin u w s))

theorem commandEffect_fromlin (u : TUnit) (r : Half) (s : State) :
    commandEffect (.fromlin u r) s = s.setTc (fromlin r u).res false false :=
  Host.Outcome.next.inj ((exec_eq _ s).symm.trans (exec_fromlin u r s))

/-- A TC command leaves at most one of RANGE and INVALID set, whatever they were before (41_tempconv R96). -/
theorem commandEffect_flagsLegal_of_tc {i : Instr} (hi : isTc i = true) (s : State) : FlagsLegal (commandEffect i s) := by
  obtain ⟨u, ⟨w, rfl⟩ | ⟨r, rfl⟩⟩ := exists_unit_of_isTc hi
  · simpa [FlagsLegal, commandEffect_tolin] using tolin_flags w u
  · simp [FlagsLegal, commandEffect_fromlin]

/-- Settles O56: an illegal word writes ILL only, a command never does, and a TOLIN's flags follow its operand's class. -/
theorem atMostOneConditionPerCommand : Obligations.AtMostOneConditionPerCommand := by
  refine ⟨fun s w rest why hp hd => ⟨_, step_of_illegal hp hd, State.raiseIll_range _, State.raiseIll_invalid _⟩,
    fun i s => ⟨_, exec_eq i s, commandEffect_ill i s, ?command⟩, fun s u w => ⟨_, exec_tolin u w s, ?nan, ?inf, ?finite⟩⟩
  case command =>
    cases hi : isTc i with
    | false =>
      obtain ⟨f, hf⟩ := commandEffect_of_crc hi
      exact .inl ⟨rfl, by simp [hf]⟩
    | true => exact .inr ⟨rfl, commandEffect_flagsLegal_of_tc hi s⟩
  case nan => exact fun hw => by simp [tolin_of_isNan hw]
  case inf => exact fun hw => by simp [tolin_of_isInf hw]
  case finite => exact fun hw => by simp [tolin_of_isFinite hw]

end Sys2Proof.Machine

/-! ### The decoder against the encoder, the flags' invariant, and the single events (30_encoding R46, 10_state R14, R22) -/

namespace Sys2Proof.Machine

/-- Settles O8: each format's decoder reads its fields back from the encoder's word; every command is well formed. -/
theorem decodeOfEncodeGivesTheCommand : Obligations.DecodeOfEncodeGivesTheCommand :=
  fun i _ => decode_encode i

/-- Settles O52: every step is one of four updates, and each keeps the two bits or writes them legally. -/
theorem stepKeepsFlagsLegal : Obligations.StepKeepsFlagsLegal :=
  step_keeps_flagsLegal

/-- Settles O9: the op and the must-be-zero bits that a decoder's branch checks give the word back. -/
theorem legalWordIsTheEncodingOfItsCommand : Obligations.LegalWordIsTheEncodingOfItsCommand :=
  fun _ _ hd => (eq_encode_of_decode hd).symm

/-- Settles O53: the flags of the reset state, evaluated. -/
theorem resetFlagsAreLegal : Obligations.ResetFlagsAreLegal :=
  flagsLegal_reset

/-- Settles O2: a pending reset is applied, and `applyReset` writes the reset values. -/
theorem resetEventWritesResetValues : Obligations.ResetEventWritesResetValues :=
  fun _ _ hp => step_of_reset hp

/-- Settles O3: with nothing pending the step idles. -/
theorem nothingPendingChangesNothing : Obligations.NothingPendingChangesNothing :=
  fun _ => step_of_nil

/-- Settles O4: the step has the decoded command's effect, as `exec` has. -/
theorem stepRunsTheDecodedCommand : Obligations.StepRunsTheDecodedCommand :=
  fun _ _ _ i hp hd => (step_of_legal hp hd).trans (exec_eq i _).symm

/-- Settles O7: the eight words, evaluated. -/
theorem sampleWordsDecodeAsListed : Obligations.SampleWordsDecodeAsListed := by
  unfold Obligations.SampleWordsDecodeAsListed
  decide

end Sys2Proof.Machine

/-! ### The fold as a bijection, and the CRC as an error check (40_crc R74, R75, 70_reset R128) -/

namespace Sys2Proof.Machine

/-- The bit step loses nothing: bit 0 of the result is the feedback, and with it every bit of the register is found again. -/
theorem crcBit_injective (m : Bool) : Function.Injective fun c => crcBit c m := by
  intro c c' (h : crcBit c m = crcBit c' m)
  have hbit : ∀ k < 8, (crcBit c m).getLsbD k = (crcBit c' m).getLsbD k := fun k _ => by rw [h]
  have htop : c.getLsbD 7 = c'.getLsbD 7 := by
    have hfb := hbit 0 (by decide)
    rw [getLsbD_crcBit c m (by decide), getLsbD_crcBit c' m (by decide)] at hfb
    simpa only [Config.crcFeedback, BitVec.reduceGetLsb, Bool.and_true, lt_self_iff_false, decide_false, Bool.false_and,
      Bool.false_xor, Bool.xor_left_inj] using hfb
  refine BitVec.eq_of_getLsbD_eq fun k hk => ?_
  rcases Nat.lt_or_ge k 7 with hlow | hhigh
  · have hk1 : k + 1 < 8 := by omega
    have hnext := hbit (k + 1) hk1
    rw [getLsbD_crcBit c m hk1, getLsbD_crcBit c' m hk1, htop] at hnext
    simpa using hnext
  · rwa [show k = 7 by omega]

/-- A left fold of injective steps is injective in its start. -/
theorem foldl_injective {α β : Type} {f : β → α → β} (hf : ∀ a, Function.Injective fun b => f b a) (l : List α) :
    Function.Injective fun b => l.foldl f b := by
  induction l with
  | nil => exact Function.injective_id
  | cons a l ih => exact ih.comp (hf a)

/-- For a fixed byte the fold is injective in the register, as its eight bit steps are (40_crc R75 d). -/
theorem crc8_injective_left (b : Byte) : Function.Injective fun p => crc8 p b :=
  foldl_injective (fun i => crcBit_injective (b.getLsbD i)) _

/-- The fold is symmetric in the register and the byte. -/
theorem crc8_comm (p b : Byte) : crc8 p b = crc8 b p := crc8_congr_xor (BitVec.xor_comm p b)

/-- For a fixed register the fold is injective in the byte (40_crc R75 c). -/
theorem crc8_injective_right (p : Byte) : Function.Injective (crc8 p) := by
  have hcomm : crc8 p = fun b => crc8 b p := funext (crc8_comm p)
  rw [hcomm]
  exact crc8_injective_left p

/-- The fold is 0 where the byte is the register's value, and nowhere else. -/
theorem crc8_eq_zero_iff (p b : Byte) : crc8 p b = 0x00#8 ↔ b = p := by
  rw [← crc8_self p]
  exact (crc8_injective_right p).eq_iff

/-- Folding a list of bytes is linear over GF(2) in the register and the bytes together. -/
theorem foldl_crc8_xor {as bs : List Byte} (hlen : as.length = bs.length) (c c' : Byte) :
    (List.zipWith (· ^^^ ·) as bs).foldl crc8 (c ^^^ c') = as.foldl crc8 c ^^^ bs.foldl crc8 c' := by
  induction as generalizing bs c c' with
  | nil =>
    obtain rfl := List.length_eq_zero_iff.1 hlen.symm
    rfl
  | cons a as ih =>
    obtain ⟨b, bs, rfl⟩ := List.exists_cons_of_length_eq_add_one hlen.symm
    simp only [List.zipWith_cons_cons, List.foldl_cons, crc8_xor]
    exact ih (Nat.succ.inj hlen) _ _

/-- Settles O21: the fold is linear, and the seed 0 is the XOR of two seeds. -/
theorem crcIsLinear : Obligations.CrcIsLinear :=
  ⟨crc8_xor, fun _ _ hlen => foldl_crc8_xor hlen Config.crcSeed Config.crcSeed⟩

/-- Settles O22: the fold is injective in each argument, and there are finitely many bytes. -/
theorem foldIsBijectiveInEachArgument : Obligations.FoldIsBijectiveInEachArgument :=
  ⟨fun p => Finite.injective_iff_bijective.1 (crc8_injective_right p),
    fun b => Finite.injective_iff_bijective.1 (crc8_injective_left b), crc8_eq_zero_iff⟩

/-- The CRC of a message from the register it has reached before its last bytes. -/
theorem crc8Msg_append_cons (before after : List Byte) (b : Byte) :
    crc8Msg (before ++ b :: after) = after.foldl crc8 (crc8 (crc8Msg before) b) := by
  rw [crc8Msg, List.foldl_append, List.foldl_cons, crc8Msg]

/-- Settles O23: the fold of the byte is injective in it, and the later folds are injective in the register. -/
theorem oneByteCorruptionChangesTheCrc : Obligations.OneByteCorruptionChangesTheCrc := by
  intro before after b b' hne heq
  rw [crc8Msg_append_cons, crc8Msg_append_cons] at heq
  exact hne (crc8_injective_right _ (foldl_injective crc8_injective_left after heq))

/-- Settles O24: the last fold is of the received byte into the computed one. -/
theorem foldingThePecGivesZeroExactlyWhenGood : Obligations.FoldingThePecGivesZeroExactlyWhenGood := by
  refine ⟨fun bs pecRx => ?_, fun s pecRx => ⟨_, exec_eq (.crcFold pecRx) s, crc8_eq_zero_iff s.crc pecRx⟩⟩
  rw [crc8Msg_append_byte]
  exact crc8_eq_zero_iff _ _

/-- Settles O25: the PEC is the folds from 0, and the folds are injective in the register. -/
theorem unseededFoldsMissThePec : Obligations.UnseededFoldsMissThePec :=
  fun bs _ => (foldl_injective crc8_injective_left bs).eq_iff

/-- The entries of the printed table that stand at their own place (95_test_vectors 2.1). -/
theorem crcTable_getElem?_eq_self_iff (c : Byte) : crcTable[c.toNat]? = some c ↔ c = 0x00#8 ∨ c = 0xFD#8 := by
  revert c; decide

/-- The registers that a zero byte leaves as they are, read from the table (log 9). -/
theorem crc8_zero_eq_self_iff (c : Byte) : crc8 c 0x00#8 = c ↔ c = 0x00#8 ∨ c = 0xFD#8 := by
  rw [← crcTable_getElem?_eq_self_iff, crcTable_getElem?, Option.some_inj, crc8_comm]

/-- Settles O15: the command's one update, its encoder's words, and for which CRC a fold is 0 or changes nothing. -/
theorem crcFoldFoldsItsByte : Obligations.CrcFoldFoldsItsByte := by
  refine ⟨fun s b => exec_eq (.crcFold b) s, fun b => decode_encode (.crcFold b), fun s => ?_, by decide, by decide,
    crc8_zero_eq_self_iff⟩
  rw [exec_eq, commandEffect, crc8_self, State.setCrc]

/-- Settles O27: the CRCs by table lookup, which evaluates in fewer steps than the fold. -/
theorem referenceVectorsOfTheCrc : Obligations.ReferenceVectorsOfTheCrc := by
  obtain ⟨-, hlookup, -⟩ := foldIsTableLookup
  refine ⟨by decide, ?_, ?_, ?_⟩ <;> rw [hlookup] <;> rfl

end Sys2Proof.Machine

/-! ### The two roundings: error, monotonicity, and where they give a given integer (41_tempconv R84) -/

namespace Sys2Proof.Machine

/-- How far rounding of the magnitude moves a rational: the two signs mirror each other. -/
theorem magFloor_sub_bounds (c q : Rat) :
    (c - 1 < magFloor c q - q ∧ magFloor c q - q ≤ c) ∨ (-c ≤ magFloor c q - q ∧ magFloor c q - q < 1 - c) := by
  unfold magFloor
  split
  · have hle := Int.floor_le (q + c)
    have hlt := Int.lt_floor_add_one (q + c)
    left
    constructor <;> linarith
  · have hle := Int.floor_le (-q + c)
    have hlt := Int.lt_floor_add_one (-q + c)
    right
    push_cast
    constructor <;> linarith

theorem abs_rha_sub_le (q : Rat) : |rha q - q| ≤ 1 / 2 := by
  rw [rha_eq_magFloor, abs_le]
  rcases magFloor_sub_bounds (1 / 2) q with ⟨hlow, hhigh⟩ | ⟨hlow, hhigh⟩ <;> constructor <;> linarith

theorem abs_tz_sub_lt (q : Rat) : |tz q - q| < 1 := by
  rw [tz_eq_magFloor, abs_lt]
  rcases magFloor_sub_bounds 0 q with ⟨hlow, hhigh⟩ | ⟨hlow, hhigh⟩ <;> constructor <;> linarith

/-- Integers less than 1 apart are equal. -/
theorem eq_of_abs_cast_sub_lt_one {i j : Int} (h : |(i : Rat) - j| < 1) : i = j := by
  have hint : |i - j| < 1 := by exact_mod_cast h
  exact sub_eq_zero.1 (Int.abs_lt_one_iff.1 hint)

/-- A value nearer than a half to an integer is rounded to it. -/
theorem rha_eq_of_abs_sub_lt {q : Rat} {i : Int} (h : |q - i| < 1 / 2) : rha q = i := by
  refine eq_of_abs_cast_sub_lt_one ?_
  calc |(rha q : Rat) - i| ≤ |rha q - q| + |q - i| := abs_sub_le _ _ _
    _ < 1 / 2 + 1 / 2 := add_lt_add_of_le_of_lt (abs_rha_sub_le q) h
    _ = 1 := by norm_num

/-- Truncation keeps an integer. -/
theorem tz_intCast (i : Int) : tz (i : Rat) = i := eq_of_abs_cast_sub_lt_one (abs_tz_sub_lt i)

/-- Rounding of the magnitude is monotone: a negative value does not round above 0, and no other one below. -/
theorem magFloor_monotone {c : Rat} (hc : 0 ≤ c) : Monotone (magFloor c) := by
  intro q q' hqq'
  unfold magFloor
  split <;> split
  · exact Int.floor_le_floor (by linarith)
  · linarith
  · next hq hq' =>
    have hneg : 0 ≤ ⌊-q + c⌋ := Int.floor_nonneg.2 (by linarith)
    have hpos : 0 ≤ ⌊q' + c⌋ := Int.floor_nonneg.2 (by linarith)
    omega
  · exact neg_le_neg (Int.floor_le_floor (by linarith))

theorem rha_monotone : Monotone rha := magFloor_monotone (c := 1 / 2) (by norm_num)

theorem tz_monotone : Monotone tz := by
  rw [show tz = magFloor 0 from funext tz_eq_magFloor]
  exact magFloor_monotone le_rfl

theorem sat16_monotone : Monotone sat16 := by
  intro i j hij
  rw [sat16_eq_max_min, sat16_eq_max_min]
  exact max_le_max_left _ (min_le_min_left _ hij)

end Sys2Proof.Machine

/-! ### FL and TL: inverses on counts, error, monotonicity (41_tempconv R98) -/

namespace Sys2Proof.Machine

/-- Where TL rounds to nearest, a value less than half a count from FL of a count is that count. -/
theorem exactTL_eq_of_near {u : TUnit} (hu : u ≠ .raw) {raw : Int} {v : Rat} (h : |v - exactFL raw u| < 1 / 100) :
    exactTL v u = raw := by
  rw [abs_lt] at h
  obtain ⟨hlow, hhigh⟩ := h
  cases u with
  | raw => exact absurd rfl hu
  | kelvin | celsius | fahrenheit =>
    simp only [exactFL] at hlow hhigh
    refine rha_eq_of_abs_sub_lt (abs_lt.2 ⟨?_, ?_⟩) <;> linarith

/-- TL undoes FL (41_tempconv R98 a). -/
theorem exactTL_exactFL (raw : Int) (u : TUnit) : exactTL (exactFL raw u) u = raw := by
  by_cases hu : u = .raw
  · rw [hu]
    exact tz_intCast raw
  · exact exactTL_eq_of_near hu (by rw [sub_self, abs_zero]; norm_num)

/-- Settles O46: an exact value is not rounded, so TL undoes FL. -/
theorem exactFormulasInvertOnCounts : Obligations.ExactFormulasInvertOnCounts :=
  exactTL_exactFL

/-- Settles O48: FL after TL is off by the one rounding of TL, of half a count, or for R of less than a count. -/
theorem tolinThenFromlinErrorBound : Obligations.TolinThenFromlinErrorBound := by
  intro v
  refine ⟨?celsius, ?kelvin, ?fahrenheit, abs_tz_sub_lt v⟩
  case celsius =>
    have herr := abs_le.1 (abs_rha_sub_le (50 * (v + 27315 / 100)))
    simp only [exactFL, exactTL, abs_le]
    constructor <;> linarith
  case kelvin =>
    have herr := abs_le.1 (abs_rha_sub_le (50 * v))
    simp only [exactFL, exactTL, abs_le]
    constructor <;> linarith
  case fahrenheit =>
    have herr := abs_le.1 (abs_rha_sub_le (50 * ((v - 32) * 5 / 9 + 27315 / 100)))
    simp only [exactFL, exactTL, abs_le]
    constructor <;> linarith

/-- The values of two counts lie at least 0.02 apart. -/
theorem exactFL_add_le {a b : Int} (hab : a < b) (u : TUnit) : exactFL a u + 1 / 50 ≤ exactFL b u := by
  have hab' : (a : Rat) + 1 ≤ b := by exact_mod_cast hab
  cases u <;> simp only [exactFL] <;> linarith

theorem exactFL_strictMono (u : TUnit) : StrictMono fun raw : Int => exactFL raw u :=
  fun _ _ hab => (lt_add_of_pos_right _ (by norm_num)).trans_le (exactFL_add_le hab u)

theorem exactTL_monotone (u : TUnit) : Monotone fun v : Rat => exactTL v u := by
  intro v v' hvv'
  cases u with
  | raw => exact tz_monotone hvv'
  | kelvin | celsius | fahrenheit => exact rha_monotone (by linarith)

/-- TL of a Fahrenheit value is TL of the same temperature in Celsius. -/
theorem exactTL_fahrenheit (v : Rat) : exactTL v .fahrenheit = exactTL ((v - 32) * 5 / 9) .celsius := rfl

/-- The count of a whole or half degree, however the degree is written. -/
theorem exactTL_celsius_of_eq_half {v : Rat} {k : Int} (hv : v = k / 2) (hk : -100 ≤ k) :
    exactTL v .celsius = 25 * k + 13658 := by
  rw [hv, exactTL_half_celsius hk]

/-- Settles O50: the three temperatures are whole Celsius degrees, given in Celsius and in Fahrenheit. -/
theorem sameTemperatureSameCount : Obligations.SameTemperatureSameCount := by
  unfold Obligations.SameTemperatureSameCount
  rw [exactTL_fahrenheit, exactTL_fahrenheit, exactTL_fahrenheit]
  exact ⟨exactTL_celsius_of_eq_half (k := 50) (by norm_num) (by decide),
    exactTL_celsius_of_eq_half (k := 50) (by norm_num) (by decide),
    exactTL_celsius_of_eq_half (k := 200) (by norm_num) (by decide),
    exactTL_celsius_of_eq_half (k := 200) (by norm_num) (by decide),
    exactTL_celsius_of_eq_half (k := 0) (by norm_num) (by decide),
    exactTL_celsius_of_eq_half (k := 0) (by norm_num) (by decide)⟩

end Sys2Proof.Machine

/-! ### The one rounding of FROMLIN, and the round trips of the commands (30_encoding R45, 41_tempconv R87, R98, 10_state R12) -/

namespace Sys2Proof.Machine

open Sys2Proof.Claims

/-- Settles O36: of two words next to each other one is odd, so two even words as near have a nearer one between. -/
theorem nearestWordIsUnique : Obligations.NearestWordIsUnique :=
  fun _ _ _ => isF32Rne_unique

/-- Settles O37: the rounded field is nearer than every other field of either sign, or as near and even. -/
theorem integerRoundingIsNearestTiesToEven : Obligations.IntegerRoundingIsNearestTiesToEven :=
  fun n _ hd hq => isF32Rne_f32rne n hd hq

/-- Settles O38: the value in units over one denominator, and the integer divisions as the two roundings. -/
theorem integerConversionIsTheExactFormula : Obligations.IntegerConversionIsTheExactFormula := by
  refine fun w u _ => ⟨?_, linearOf_eq_exactTL w u⟩
  rw [f32val_eq_units, unitsPerOne, Nat.cast_pow, Nat.cast_ofNat]

/-- Up to 32768 in size some word lies on every multiple of 1/256, so the one rounding is off by at most half of that. -/
theorem IsF32Rne.abs_sub_le_of_abs_le {q : Rat} {w : W32} (h : IsF32Rne q w) (hq : |q| ≤ 32768) :
    |f32val w - q| ≤ 1 / 512 := by
  obtain ⟨n, hn⟩ : ∃ n : Int, |q * 2 ^ 8 - n| ≤ 1 / 2 := ⟨_, abs_sub_round _⟩
  rw [abs_le] at hn hq
  obtain ⟨hn_low, hn_high⟩ := hn
  obtain ⟨hq_low, hq_high⟩ := hq
  have hbits : n.natAbs < 2 ^ 24 := by
    have hlt : (n : Rat) < ((2 ^ 24 : Int) : Rat) := by push_cast; linarith
    have hgt : ((-2 ^ 24 : Int) : Rat) < n := by push_cast; linarith
    rw [Int.cast_lt] at hlt hgt
    omega
  refine (h.abs_sub_le hbits (j := 8) (by decide)).trans (abs_le.2 ⟨?_, ?_⟩) <;> linarith

/-- FL of a count is at most 32768 in size (41_tempconv R101). -/
theorem abs_exactFL_le (r : Half) (u : TUnit) : |exactFL r.toInt u| ≤ 32768 := by
  have hlow : (-32768 : Rat) ≤ r.toInt := by exact_mod_cast r.le_toInt
  have hhigh : (r.toInt : Rat) ≤ 32768 := by exact_mod_cast r.toInt_lt.le
  cases u <;> simp only [exactFL, abs_le] <;> constructor <;> linarith

/-- A FROMLIN result is off by less than a tenth of a count. -/
theorem abs_f32val_fromlin_sub_le (r : Half) (u : TUnit) :
    |f32val (fromlin r u).res - exactFL r.toInt u| ≤ 1 / 512 :=
  (isF32Rne_fromlin r u).abs_sub_le_of_abs_le (abs_exactFL_le r u)

/-- A count is a binary32 value, so TC.FROMLIN.R is exact (41_tempconv R95). -/
theorem f32val_fromlin_raw (r : Half) : f32val (fromlin r .raw).res = r.toInt := by
  have hlow := r.le_toInt
  have hhigh := r.toInt_lt
  obtain ⟨w, hfin, hval⟩ := exists_f32val_eq (n := r.toInt) (by omega) (Nat.zero_le 149)
  exact (isF32Rne_fromlin r .raw).f32val_eq hfin (by rw [hval, pow_zero, div_one, exactFL])

/-- TL gives a count back through the one rounding of FROMLIN. -/
theorem exactTL_f32val_fromlin (r : Half) (u : TUnit) : exactTL (f32val (fromlin r u).res) u = r.toInt := by
  by_cases hu : u = .raw
  · rw [hu, f32val_fromlin_raw]
    exact tz_intCast _
  · exact exactTL_eq_of_near hu ((abs_f32val_fromlin_sub_le r u).trans_lt (by norm_num))

/-- A TOLIN of a FROMLIN result is the count, without a flag. -/
theorem tolin_fromlin (r : Half) (u : TUnit) : tolin (fromlin r u).res u = ⟨r.signExtend 32, false, false⟩ := by
  have hlow : -32768 ≤ r.toInt := r.le_toInt
  have hhigh : r.toInt < 32768 := r.toInt_lt
  rw [tolin_of_isFinite_exact (isF32Rne_fromlin r u).finite, exactTL_f32val_fromlin, sat16_of_fits hlow (by omega),
    resOfCount, BitVec.ofInt_toInt]
  simp

/-- The low half of a sign-extended count is the count. -/
theorem low_signExtend (r : Half) : (r.signExtend 32).extractLsb' 0 16 = r := by
  refine BitVec.eq_of_getLsbD_eq fun k hk => ?_
  rw [BitVec.getLsbD_extractLsb', BitVec.getLsbD_signExtend]
  simp [hk, show k < 32 by omega]

/-- The high half of a sign-extended count is sixteen copies of its sign (10_state R12). -/
theorem getLsbD_high_signExtend (r : Half) {k : Nat} (hk : k < 16) :
    (r.signExtend 32).getLsbD (16 + k) = (r.signExtend 32).getLsbD 15 := by
  rw [BitVec.getLsbD_signExtend, BitVec.getLsbD_signExtend, BitVec.msb_eq_getLsbD_last]
  simp [show 16 + k < 32 by omega]

/-- Settles O47: what the TOLIN reads in RES is the FROMLIN result, whatever the state was. -/
theorem fromlinThenTolinGivesTheCountBack : Obligations.FromlinThenTolinGivesTheCountBack := by
  intro s u r
  refine ⟨_, _, exec_fromlin u r s, exec_tolin u (fromlin r u).res _, ?_⟩
  rw [tolin_fromlin]
  exact ⟨low_signExtend r, rfl, State.setTc_range _ _ _ _, State.setTc_invalid _ _ _ _⟩

/-- The count that a TOLIN writes: the operand's class, NaN first, then infinity, then the clamp of TL (41_tempconv R85, R86). -/
def tolinCount (w : W32) (u : TUnit) : Int :=
  if isNan w then 0 else if isInf w then (if f32Sign w then -32768 else 32767) else sat16 (exactTL (f32val w) u)

theorem tolin_res (w : W32) (u : TUnit) : (tolin w u).res = resOfCount (tolinCount w u) := by
  unfold tolin tolinCount
  split
  · rfl
  · split
    · rfl
    · rw [linearOf_eq_exactTL]

theorem tolinCount_range (w : W32) (u : TUnit) : -32768 ≤ tolinCount w u ∧ tolinCount w u ≤ 32767 := by
  unfold tolinCount
  split
  · decide
  · split
    · cases f32Sign w <;> decide
    · exact sat16_range _

/-- Settles O43: RES is a sign-extended count, and the count fits its low half. -/
theorem tolinResultIsSignExtended : Obligations.TolinResultIsSignExtended := by
  refine fun s u w => ⟨_, exec_tolin u w s, fun k hk => ?_, ?_⟩ <;> rw [State.setTc_res]
  · obtain ⟨x, hx⟩ := exists_tolin_res_eq w u
    rw [hx]
    exact getLsbD_high_signExtend x hk
  · obtain ⟨hlow, hhigh⟩ := tolinCount_range w u
    rw [tolin_res]
    exact toInt_low_resOfCount hlow hhigh

/-- A subnormal or a zero is smaller than every FROMLIN result that is not 0. -/
theorem one_le_f32Exp_of_le_abs {w : W32} (h : 1 / 512 ≤ |f32val w|) : 1 ≤ f32Exp w := by
  by_contra hexp
  have hunits : |f32Units w| < 2 ^ 23 := by
    have hmag : f32MagUnits w < 2 ^ 23 := by
      rw [f32MagUnits, if_pos (by omega), f32Frac_eq]
      exact Nat.mod_lt _ (by decide)
    rw [f32Units, abs_lt]
    split <;> omega
  have hunits' : |(f32Units w : Rat)| < 2 ^ 23 := by exact_mod_cast hunits
  rw [f32val_eq_units, abs_div, Nat.abs_cast, le_div_iff₀ (by norm_num [unitsPerOne])] at h
  have hunit : (2 ^ 23 : Rat) ≤ 1 / 512 * unitsPerOne := by norm_num [unitsPerOne]
  linarith

theorem f32Exp_le_of_isFinite {w : W32} (hw : isFinite w = true) : f32Exp w ≤ 254 := by
  rw [isFinite_iff] at hw
  rw [f32Exp_eq]
  omega

/-- FL of a count is 0 or at least 0.01 in size (41_tempconv R101). -/
theorem exactFL_eq_zero_or_le_abs (r : Half) (u : TUnit) : exactFL r.toInt u = 0 ∨ 1 / 100 ≤ |exactFL r.toInt u| := by
  have hint : thousandths r.toInt u = 0 ∨ 10 ≤ |thousandths r.toInt u| := by
    cases u <;> simp only [thousandths, le_abs] <;> omega
  rw [← thousandths_div]
  refine hint.imp (fun h => by simp [h]) fun h => ?_
  have h' : (10 : Rat) ≤ |(thousandths r.toInt u : Rat)| := by exact_mod_cast h
  rw [abs_div, Nat.abs_cast, le_div_iff₀ (by norm_num)]
  push_cast
  linarith

/-- Settles O41: FL is 0 and its word +0.0, or FL is too large for a subnormal; the one rounding is finite. -/
theorem fromlinResultIsNormalOrPlusZero : Obligations.FromlinResultIsNormalOrPlusZero := by
  refine fun s u r => ⟨_, exec_fromlin u r s, ?_⟩
  rw [State.setTc_res]
  have hrne := isF32Rne_fromlin r u
  refine (exactFL_eq_zero_or_le_abs r u).imp hrne.zero fun hbig => ⟨one_le_f32Exp_of_le_abs ?_, f32Exp_le_of_isFinite hrne.finite⟩
  have herr := abs_f32val_fromlin_sub_le r u
  have htri := abs_sub_abs_le_abs_sub (exactFL r.toInt u) (f32val (fromlin r u).res)
  rw [abs_sub_comm] at htri
  linarith

/-- FROMLIN results are as far apart as FL's values, less the two errors. -/
theorem f32val_fromlin_lt {r r' : Half} (h : r.toInt < r'.toInt) (u : TUnit) :
    f32val (fromlin r u).res < f32val (fromlin r' u).res := by
  have hgap := exactFL_add_le h u
  have herr := abs_le.1 (abs_f32val_fromlin_sub_le r u)
  have herr' := abs_le.1 (abs_f32val_fromlin_sub_le r' u)
  linarith

/-- RES after a TOLIN of a finite word, as an integer, is the clamp of TL. -/
theorem toInt_tolin_res {w : W32} (hw : isFinite w = true) (u : TUnit) :
    (tolin w u).res.toInt = sat16 (exactTL (f32val w) u) := by
  obtain ⟨hlow, hhigh⟩ := sat16_range (exactTL (f32val w) u)
  rw [tolin_of_isFinite_exact hw]
  exact toInt_resOfCount hlow hhigh

/-- Settles O49: rounding and the clamp are monotone, and FROMLIN's rounding is finer than the distance of two counts. -/
theorem conversionsAreMonotone : Obligations.ConversionsAreMonotone := by
  refine ⟨exactFL_strictMono, exactTL_monotone, fun s u w w' hw hw' hle => ⟨_, _, exec_tolin u w s, exec_tolin u w' s, ?_⟩,
    fun s u r r' hlt => ⟨_, _, exec_fromlin u r s, exec_fromlin u r' s, f32val_fromlin_lt hlt u⟩⟩
  rw [State.setTc_res, State.setTc_res, toInt_tolin_res hw, toInt_tolin_res hw']
  exact sat16_monotone (exactTL_monotone u hle)

end Sys2Proof.Machine

/-! ### Runs seen through one register, and a run without the other unit's commands (00_scope R9, 70_reset R129) -/

namespace Sys2Proof.Machine

open Sys2Proof.Claims

/-- What every event leaves in the view depends on the view alone. -/
def SteersItself {α : Type} (view : State → α) : Prop :=
  ∀ (e : HostEvent) (s s' : State), view s = view s' → view (eventEffect s e) = view (eventEffect s' e)

/-- A view steers itself when each of the four updates does: an event is one of them. -/
theorem steersItself_of_updates {α : Type} {view : State → α}
    (hreset : ∀ s s', view s = view s' → view s.applyReset = view s'.applyReset)
    (hill : ∀ s s', view s = view s' → view s.raiseIll = view s'.raiseIll)
    (hcrc : ∀ (f : Byte → Byte) (s s'), view s = view s' → view (s.setCrc (f s.crc)) = view (s'.setCrc (f s'.crc)))
    (htc : ∀ res range invalid s s', view s = view s' → view (s.setTc res range invalid) = view (s'.setTc res range invalid)) :
    SteersItself view := by
  intro e s s' h
  cases e with
  | reset => exact hreset s s' h
  | command w =>
    cases hd : decode w with
    | illegal why =>
      rw [eventEffect_of_illegal hd, eventEffect_of_illegal hd]
      exact hill s s' h
    | legal i =>
      rw [eventEffect_of_legal hd, eventEffect_of_legal hd]
      cases hi : isTc i with
      | false =>
        obtain ⟨f, hf⟩ := commandEffect_of_crc hi
        rw [hf, hf]
        exact hcrc f s s' h
      | true =>
        obtain ⟨res, range, invalid, hf⟩ := commandEffect_of_tc hi
        rw [hf, hf]
        exact htc res range invalid s s' h

theorem steersItself_crc : SteersItself State.crc :=
  steersItself_of_updates (fun _ _ _ => rfl) (fun _ _ h => h) (fun f _ _ h => congrArg f h) (fun _ _ _ _ _ h => h)

theorem steersItself_res : SteersItself State.res :=
  steersItself_of_updates (fun _ _ _ => rfl) (fun _ _ h => h) (fun _ _ _ h => h) (fun _ _ _ _ _ _ => rfl)

theorem steersItself_flags : SteersItself State.flags :=
  steersItself_of_updates (fun _ _ _ => rfl) (fun _ _ h => congrArg illFlags h) (fun _ _ _ h => h)
    (fun _ range invalid _ _ h => congrArg (tcFlags · range invalid) h)

theorem steersItself_ill : SteersItself State.ill :=
  steersItself_of_updates (fun _ _ _ => by simp) (fun _ _ _ => by simp) (fun _ _ _ h => h)
    (fun _ _ _ _ _ h => by simpa [State.ill] using h)

/-- Taking out of a run the events that leave the view as it was leaves the view at the end as it was. -/
theorem SteersItself.foldl_filter {α : Type} {view : State → α} (hview : SteersItself view) {p : HostEvent → Bool}
    (hskip : ∀ e s, p e = true → view (eventEffect s e) = view s) (evs : List HostEvent) {s s' : State}
    (h : view s = view s') :
    view (evs.foldl eventEffect s) = view ((evs.filter fun e => !p e).foldl eventEffect s') := by
  induction evs generalizing s s' with
  | nil => exact h
  | cons e evs ih =>
    rw [List.foldl_cons]
    cases hp : p e with
    | false =>
      rw [List.filter_cons_of_pos (by simp [hp]), List.foldl_cons]
      exact ih (hview e s s' h)
    | true =>
      rw [List.filter_cons_of_neg (by simp [hp])]
      exact ih ((hskip e s hp).trans h)

/-- A whole run keeps two states equal in the view: no event is taken out. -/
theorem SteersItself.foldl {α : Type} {view : State → α} (hview : SteersItself view) (evs : List HostEvent) {s s' : State}
    (h : view s = view s') : view (evs.foldl eventEffect s) = view (evs.foldl eventEffect s') := by
  simpa using hview.foldl_filter (p := fun _ => false) (fun _ _ hp => absurd hp Bool.false_ne_true) evs h

/-- An event that presents a TC command presents a legal word of one. -/
theorem exists_of_presentsTc {e : HostEvent} (h : presentsTc e = true) :
    ∃ w i, e = .command w ∧ decode w = .legal i ∧ isTc i = true := by
  cases e with
  | reset => cases h
  | command w =>
    cases hd : decode w with
    | legal i => exact ⟨w, i, rfl, hd, by simpa [presentsTc, hd] using h⟩
    | illegal why => simp [presentsTc, hd] at h

/-- An event that presents a CRC command presents a legal word of one. -/
theorem exists_of_presentsCrc {e : HostEvent} (h : presentsCrc e = true) :
    ∃ w i, e = .command w ∧ decode w = .legal i ∧ isTc i = false := by
  cases e with
  | reset => cases h
  | command w =>
    cases hd : decode w with
    | legal i => exact ⟨w, i, rfl, hd, by simpa [presentsCrc, hd] using h⟩
    | illegal why => simp [presentsCrc, hd] at h

/-- A TC command leaves CRC and ILL as they were. -/
theorem eventEffect_of_presentsTc {e : HostEvent} (h : presentsTc e = true) (s : State) :
    (eventEffect s e).crc = s.crc ∧ (eventEffect s e).ill = s.ill := by
  obtain ⟨w, i, rfl, hd, hi⟩ := exists_of_presentsTc h
  obtain ⟨res, range, invalid, hf⟩ := commandEffect_of_tc hi
  rw [eventEffect_of_legal hd]
  exact ⟨by rw [hf, State.setTc_crc], commandEffect_ill i s⟩

/-- A CRC command leaves RES and FLAGS as they were. -/
theorem eventEffect_of_presentsCrc {e : HostEvent} (h : presentsCrc e = true) (s : State) :
    (eventEffect s e).res = s.res ∧ (eventEffect s e).flags = s.flags := by
  obtain ⟨w, i, rfl, hd, hi⟩ := exists_of_presentsCrc h
  obtain ⟨f, hf⟩ := commandEffect_of_crc hi
  rw [eventEffect_of_legal hd, hf]
  exact ⟨rfl, rfl⟩

/-- Settles O55: CRC steers itself through every update, so through every run. -/
theorem flagsAndResSteerNoLaterCrc : Obligations.FlagsAndResSteerNoLaterCrc :=
  fun evs s s' h => ⟨_, _, runEvents_eq_foldl evs s, runEvents_eq_foldl evs s', steersItself_crc.foldl evs h⟩

/-- Settles O57: each register steers itself, and the other unit's commands leave it as it was. -/
theorem interleavingTheUnitsIsInvisible : Obligations.InterleavingTheUnitsIsInvisible :=
  ⟨fun evs s => ⟨_, _, runEvents_eq_foldl evs s, runEvents_eq_foldl _ s,
      steersItself_crc.foldl_filter (fun _ s h => (eventEffect_of_presentsTc h s).1) evs rfl,
      steersItself_ill.foldl_filter (fun _ s h => (eventEffect_of_presentsTc h s).2) evs rfl⟩,
    fun evs s => ⟨_, _, runEvents_eq_foldl evs s, runEvents_eq_foldl _ s,
      steersItself_res.foldl_filter (fun _ s h => (eventEffect_of_presentsCrc h s).1) evs rfl,
      steersItself_flags.foldl_filter (fun _ s h => (eventEffect_of_presentsCrc h s).2) evs rfl⟩⟩

end Sys2Proof.Machine

/-! ### Written lines and their words (30_encoding R49, R51) -/

namespace Sys2Proof.Machine

/-- A line assembles to the words of its commands where its operands are in range, and to none elsewhere. -/
theorem assemble_eq_ite {l : AsmLine} {p : Prop} [Decidable p] {ws : List Cmd} (hwf : l.wf = true ↔ p)
    (hws : p → (expand l).map encode = ws) : assemble l = if p then some ws else none := by
  rw [assemble]
  by_cases hp : p
  · rw [if_pos (hwf.2 hp), if_pos hp, hws hp]
  · rw [if_neg (mt hwf.1 hp), if_neg hp]

/-- A number below 256 as a format B argument is `zext_32` of it. -/
theorem argB_ofNat {b : Nat} (hb : b < 256) : (0#24 ++ BitVec.ofNat 8 b : W32) = BitVec.ofNat 32 b := by
  refine BitVec.eq_of_toNat_eq ?_
  simp only [BitVec.toNat_append, BitVec.toNat_ofNat, Nat.zero_mod, Nat.zero_shiftLeft, Nat.zero_or]
  omega

/-- A number below 65536 as a format H argument is `zext_32` of it. -/
theorem argH_ofNat {r : Nat} (hr : r < 65536) : (0#16 ++ BitVec.ofNat 16 r : W32) = BitVec.ofNat 32 r := by
  refine BitVec.eq_of_toNat_eq ?_
  simp only [BitVec.toNat_append, BitVec.toNat_ofNat, Nat.zero_mod, Nat.zero_shiftLeft, Nat.zero_or]
  omega

theorem encode_crcFold_ofNat {b : Nat} (hb : b < 256) :
    encode (.crcFold (BitVec.ofNat 8 b)) = (0x11#8 ++ BitVec.ofNat 32 b : Cmd) := by
  rw [encode, wordB, argB_ofNat hb]

theorem encode_crcLoad_ofNat {b : Nat} (hb : b < 256) :
    encode (.crcLoad (BitVec.ofNat 8 b)) = (0x12#8 ++ BitVec.ofNat 32 b : Cmd) := by
  rw [encode, wordB, argB_ofNat hb]

/-- The word of a unit's TOLIN: op 0x20 and the unit's code (30_encoding R46). -/
theorem encode_tolin (u : TUnit) (v : W32) : encode (.tolin u v) = ((0x20#8 + u.code.setWidth 8) ++ v : Cmd) := by
  cases u <;> rfl

/-- The word of a unit's FROMLIN: op 0x24 and the unit's code (30_encoding R46). -/
theorem encode_fromlin (u : TUnit) (r : Half) :
    encode (.fromlin u r) = ((0x24#8 + u.code.setWidth 8) ++ (0#16 ++ r : W32) : Cmd) := by
  cases u <;> rfl

/-- A decimal literal is in range where R45 defines `f32rne` of it (log 6). -/
theorem decimal_wf_iff (num : Int) (places : Nat) :
    (DegreeLit.decimal num places).wf = true ↔ |(num : Rat) / 10 ^ places| < 2 ^ 127 := by
  have hpow : (0 : Rat) < 10 ^ places := by positivity
  rw [abs_div, abs_of_pos hpow, div_lt_iff₀ hpow, DegreeLit.wf, decide_eq_true_iff, ← Int.cast_abs, Int.abs_eq_natAbs]
  exact_mod_cast Iff.rfl

/-- A TC.TOLIN line with a decimal literal: the word of `f32rne`, or refused (30_encoding R49; log 6). -/
theorem assemble_tolin_decimal (u : TUnit) (num : Int) (places : Nat) :
    assemble (.tcTolin u (.decimal num places)) =
      if |(num : Rat) / 10 ^ places| < 2 ^ 127 then some [((0x20#8 + u.code.setWidth 8) ++ f32rne num (10 ^ places) : Cmd)]
      else none :=
  assemble_eq_ite (decimal_wf_iff num places) fun _ => by rw [expand, List.map_singleton, encode_tolin, degreeWord]

/-- Every assembled word decodes to its command. -/
theorem map_decode_of_assemble {l : AsmLine} {ws : List Cmd} (h : assemble l = some ws) :
    ws.map decode = (expand l).map .legal := by
  rw [assemble, Option.ite_none_right_eq_some] at h
  obtain ⟨-, h⟩ := h
  rw [← Option.some.inj h, List.map_map]
  exact List.map_congr_left fun i _ => decode_encode i

/-- Settles O59: the range check of each written operand, and the word its command is encoded to. -/
theorem assembledLinesDecodeToTheirCommands : Obligations.AssembledLinesDecodeToTheirCommands := by
  refine ⟨by decide, fun b => ?fold, fun b => ?load, fun u w => ?degreeWord, fun u num places hq => ?degreeDecimal,
    fun u num places hq => ?degreeRefused, fun u r => ?countWord, fun u r => ?countDecimal, fun _ _ => map_decode_of_assemble⟩
  case fold =>
    exact assemble_eq_ite decide_eq_true_iff fun hb => by rw [expand, List.map_singleton, encode_crcFold_ofNat hb]
  case load =>
    exact assemble_eq_ite decide_eq_true_iff fun hb => by rw [expand, List.map_singleton, encode_crcLoad_ofNat hb]
  case degreeWord =>
    exact assemble_eq_ite decide_eq_true_iff fun _ => by rw [expand, List.map_singleton, encode_tolin, degreeWord]
  case degreeDecimal =>
    have hrne := isF32Rne_f32rne num (d := 10 ^ places) (by positivity) (by push_cast; exact hq)
    push_cast at hrne
    exact ⟨_, by rw [assemble_tolin_decimal, if_pos hq], hrne⟩
  case degreeRefused => rw [assemble_tolin_decimal, if_neg hq.not_gt]
  case countWord =>
    exact assemble_eq_ite decide_eq_true_iff fun hr => by
      rw [expand, List.map_singleton, encode_fromlin, countWord, argH_ofNat hr]
  case countDecimal =>
    refine assemble_eq_ite ?_ fun _ => by rw [expand, List.map_singleton, encode_fromlin, countWord]
    rw [AsmLine.wf, CountLit.wf, Bool.and_eq_true, decide_eq_true_iff, decide_eq_true_iff]

/-- The write-address byte is twice the bus address (40_crc R71). -/
theorem writeAddress_ofNat (sa : Nat) : writeAddress (BitVec.ofNat 7 sa) = BitVec.ofNat 8 (2 * sa) := by
  refine BitVec.eq_of_toNat_eq ?_
  rw [writeAddress, BitVec.toNat_append, ← Nat.shiftLeft_add_eq_or_of_lt (by decide), Nat.shiftLeft_eq]
  simp only [BitVec.toNat_ofNat]
  omega

/-- The read-address byte is one more (40_crc R71). -/
theorem readAddress_ofNat (sa : Nat) : readAddress (BitVec.ofNat 7 sa) = BitVec.ofNat 8 (2 * sa + 1) := by
  refine BitVec.eq_of_toNat_eq ?_
  rw [readAddress, BitVec.toNat_append, ← Nat.shiftLeft_add_eq_or_of_lt (by decide), Nat.shiftLeft_eq]
  simp only [BitVec.toNat_ofNat]
  omega

/-- Settles O60: the range check of the four operands, and the fold word of each byte of the sequence. -/
theorem writtenPecLinesAssembleToTheirSequences : Obligations.WrittenPecLinesAssembleToTheirSequences := by
  refine ⟨fun sa reg lo hi => assemble_eq_ite ?readRange ?readWords, fun sa reg lo hi => assemble_eq_ite ?writeRange ?writeWords⟩
  case readRange | writeRange => simp [AsmLine.wf, and_assoc]
  case readWords =>
    rintro ⟨hsa, hreg, hlo, hhi⟩
    rw [expand, pecRead, readSequence, writeAddress_ofNat, readAddress_ofNat]
    simp only [foldCommands, List.map_cons, List.map_nil]
    rw [encode_crcFold_ofNat (by omega), encode_crcFold_ofNat hreg, encode_crcFold_ofNat (by omega), encode_crcFold_ofNat hlo,
      encode_crcFold_ofNat hhi]
    rfl
  case writeWords =>
    rintro ⟨hsa, hreg, hlo, hhi⟩
    rw [expand, pecWrite, writeSequence, writeAddress_ofNat]
    simp only [foldCommands, List.map_cons, List.map_nil]
    rw [encode_crcFold_ofNat (by omega), encode_crcFold_ofNat hreg, encode_crcFold_ofNat hlo, encode_crcFold_ofNat hhi]
    rfl

end Sys2Proof.Machine
